-- ==== Sys2Proof/Config.lean ====
section
/-! DEFINITION. The fixed implementation parameters of 00_scope.md rule R7, and the two parameters that
92_eei_decisions.md leaves open. The timing thresholds of rule R7 stand where the classifier uses them
(Machine/Classifier.lean). -/

namespace Sys2Proof.Config

/-- `P_FS_MIN`: the lowest legal sample rate in Hz (00_scope.md R7, 10_state.md R24). -/
def fsMin : Nat := 25000

/-- `P_TOL_MAX`: the largest legal tolerance in per mille (00_scope.md R7, 10_state.md R25). -/
def tolMax : Nat := 500

/-- `P_PRE_MIN`: the shortest valid preamble in One bits (00_scope.md R7, 41_framer.md R149). -/
def preMin : Nat := 10

/-- `P_MAX_PKT`: the packet buffer's capacity in bytes, checksum included (00_scope.md R7). -/
def maxPkt : Nat := 16

/-- `P_CSR_BASE`: base address of the register space in a host system, left open; no rule reads it
(20_memory.md R64, log entry 10). -/
opaque csrBase : Nat

/-- `P_STEP_TIME`: the time a step takes, left open; no rule reads it (70_reset_and_hazards.md R362, log
entry 10). -/
opaque stepTime : Nat

end Sys2Proof.Config
end

