-- ==== Sys2Proof/Word.lean ====
section
/-! DEFINITION. The bit-vector types of the block: a packet byte, a 32-bit register or record argument, a
64-bit sample index (00_scope.md rule R7). -/

namespace Sys2Proof

/-- A packet byte (10_state.md R37). -/
abbrev Byte := BitVec 8

/-- A 32-bit register or record argument (20_memory.md R61, 30_encoding.md R96). -/
abbrev Word := BitVec 32

/-- A sample index (`P_TS_W` = 64 bits, 00_scope.md R7). -/
abbrev Ts := BitVec 64

end Sys2Proof
end

