-- ==== Sys2Proof/Syntax.lean ====
section
/-! DEFINITION. The instructions of opcode_table.json, one constructor for each of its 49 rows, and the packet
shapes around them (30_encoding.md R83 to R86).

The bits a row matches on and the fields beside them are typed arguments. `ops` holds every content byte
after them, in reception order: first what the instruction's `take()` reads, then what `unclaimed()` reports
(42_dispatch.md R182, R183). It may be shorter than the row's operands: the packet ended early. -/

namespace Sys2Proof

inductive Instr where
  -- class 000: decoder and consist control (43_multifunction.md R221 to R229)
  | reset (ops : List Byte)
  | hardReset (ops : List Byte)
  | factoryTest (f : BitVec 1) (ops : List Byte)
  | setDecoderFlags (f : BitVec 1) (ops : List Byte)
  | setAdvAddr (f : BitVec 1) (ops : List Byte)
  | ackRequest (f : BitVec 1) (ops : List Byte)
  | consistNormal (ops : List Byte)
  | consistReverse (ops : List Byte)
  -- class 001: advanced operations (R230 to R232)
  | speed128 (ops : List Byte)
  | restrictedSpeed (ops : List Byte)
  | analogFunction (ops : List Byte)
  -- classes 010 and 011: speed and direction, `01DCSSSS` (R234, R235)
  | speedRev (c : BitVec 1) (speed : BitVec 4) (ops : List Byte)
  | speedFwd (c : BitVec 1) (speed : BitVec 4) (ops : List Byte)
  -- classes 100 and 101: function groups (R236 to R239)
  | fg1 (f0 : BitVec 1) (f : BitVec 4) (ops : List Byte)
  | fg2F5F8 (f : BitVec 4) (ops : List Byte)
  | fg2F9F12 (f : BitVec 4) (ops : List Byte)
  -- class 110: feature expansion (R240 to R252)
  | binstateLong (ops : List Byte)
  | modelTime (minute : BitVec 6) (ops : List Byte)
  | modelDate (low : BitVec 6) (ops : List Byte)
  | systemTime (low : BitVec 6) (ops : List Byte)
  | f29F36 (ops : List Byte)
  | f37F44 (ops : List Byte)
  | f45F52 (ops : List Byte)
  | f53F60 (ops : List Byte)
  | f61F68 (ops : List Byte)
  | binstateShort (ops : List Byte)
  | f13F20 (ops : List Byte)
  | f21F28 (ops : List Byte)
  -- class 111: configuration-variable access (44_cv_access.md R281 to R296)
  | pomVerify (v : BitVec 2) (ops : List Byte)
  | pomBit (v : BitVec 2) (ops : List Byte)
  | pomWrite (v : BitVec 2) (ops : List Byte)
  | xpomRead (ss : BitVec 2) (ops : List Byte)
  | xpomBit (ss : BitVec 2) (ops : List Byte)
  | xpomWrite (ss : BitVec 2) (ops : List Byte)
  | cvAccel (ops : List Byte)
  | cvDecel (ops : List Byte)
  | cvLongaddr (ops : List Byte)
  | cvIndex (ops : List Byte)
  | decoderLock (ops : List Byte)
  -- service mode (44_cv_access.md R299 to R304)
  | smDirectVerify (a : BitVec 2) (ops : List Byte)
  | smDirectBit (a : BitVec 2) (ops : List Byte)
  | smDirectWrite (a : BitVec 2) (ops : List Byte)
  | smRegVerify (r : BitVec 3) (ops : List Byte)
  | smRegWrite (r : BitVec 3) (ops : List Byte)
  -- accessory packets (42_dispatch.md R193 to R199); `hi` is byte 1 bits 6:4 as sent, not complemented
  | accBasic (lo : BitVec 6) (hi : BitVec 3) (d : BitVec 1) (port : BitVec 2) (r : BitVec 1)
      (ops : List Byte)
  | accExt (lo : BitVec 6) (hi : BitVec 3) (port : BitVec 2) (ops : List Byte)
  | accNop (lo : BitVec 6) (hi : BitVec 3) (port : BitVec 2) (t : BitVec 1) (ops : List Byte)
  -- idle and system command (42_dispatch.md R191, R192)
  | idle (ops : List Byte)
  | sysCmd (n : Byte) (ops : List Byte)
deriving DecidableEq, Repr

/-- Address kinds (30_encoding.md R99). -/
inductive AddrKind where
  | broadcast
  | mf7
  | mf14
  | reserved
  | idleSystem
deriving DecidableEq, Repr

/-- What precedes the instruction in a packet's content, or is reported before the content is rejected
(42_dispatch.md R185 to R198). Packets whose instruction begins at byte 0 have the header `bare`. -/
inductive Header where
  | bare
  | broadcast
  | mf7 (addr : BitVec 7)
  | mf14 (hi : BitVec 6) (lo : Byte)
  | reserved (a : Byte)
  | idleSystem
  /-- Basic accessory POM, bytes `10AAAAAA 1AAACDDD` (R195). -/
  | accPom (lo : BitVec 6) (hi : BitVec 3) (c : BitVec 1) (ddd : BitVec 3)
  /-- Extended accessory POM, bytes `10AAAAAA 0AAA0PP1` (R198). -/
  | accExtPom (lo : BitVec 6) (hi : BitVec 3) (port : BitVec 2)
deriving DecidableEq, Repr

/-- Why a packet's content holds no instruction. -/
inductive Reject where
  /-- `unknown_from(from, other)` (42_dispatch.md R184). -/
  | unknown (start : Nat) (other : Bool)
  /-- `take()` failed at `pos` before an instruction was recognised (R182). -/
  | missing (pos : Nat)
  /-- First byte 232 to 254: no further decode (R190). -/
  | reservedAddress
deriving DecidableEq, Repr

/-- The decoder's answer on what follows the header. -/
inductive Body where
  | instr (i : Instr)
  | reject (r : Reject)
deriving DecidableEq, Repr

/-- A decoded packet content. -/
structure Packet where
  header : Header
  body : Body
deriving DecidableEq, Repr

end Sys2Proof
end

