-- ==== Sys2Proof/WellFormed.lean ====
section
/-! DEFINITION. Which instructions and packets the encodings of 30_encoding.md admit. An ill-formed term stands
for no packet content: its bytes would decode to another instruction, or do not fit the packet buffer. -/

namespace Sys2Proof

/-- A third byte `1110xxxx` marks a CV access in an accessory packet (42_dispatch.md R195, R198). -/
def cvShaped (b : Byte) : Bool := b.extractLsb' 4 4 == 0b1110#4

/-- The content bytes of an instruction: those its row matches on, then `ops`. -/
def Instr.size : Instr → Nat
  | .reset ops => 1 + ops.length
  | .hardReset ops => 1 + ops.length
  | .factoryTest _ ops => 1 + ops.length
  | .setDecoderFlags _ ops => 1 + ops.length
  | .setAdvAddr _ ops => 1 + ops.length
  | .ackRequest _ ops => 1 + ops.length
  | .consistNormal ops => 1 + ops.length
  | .consistReverse ops => 1 + ops.length
  | .speed128 ops => 1 + ops.length
  | .restrictedSpeed ops => 1 + ops.length
  | .analogFunction ops => 1 + ops.length
  | .speedRev _ _ ops => 1 + ops.length
  | .speedFwd _ _ ops => 1 + ops.length
  | .fg1 _ _ ops => 1 + ops.length
  | .fg2F5F8 _ ops => 1 + ops.length
  | .fg2F9F12 _ ops => 1 + ops.length
  | .binstateLong ops => 1 + ops.length
  | .modelTime _ ops => 2 + ops.length
  | .modelDate _ ops => 2 + ops.length
  | .systemTime _ ops => 2 + ops.length
  | .f29F36 ops => 1 + ops.length
  | .f37F44 ops => 1 + ops.length
  | .f45F52 ops => 1 + ops.length
  | .f53F60 ops => 1 + ops.length
  | .f61F68 ops => 1 + ops.length
  | .binstateShort ops => 1 + ops.length
  | .f13F20 ops => 1 + ops.length
  | .f21F28 ops => 1 + ops.length
  | .pomVerify _ ops => 1 + ops.length
  | .pomBit _ ops => 1 + ops.length
  | .pomWrite _ ops => 1 + ops.length
  | .xpomRead _ ops => 1 + ops.length
  | .xpomBit _ ops => 1 + ops.length
  | .xpomWrite _ ops => 1 + ops.length
  | .cvAccel ops => 1 + ops.length
  | .cvDecel ops => 1 + ops.length
  | .cvLongaddr ops => 1 + ops.length
  | .cvIndex ops => 1 + ops.length
  | .decoderLock ops => 1 + ops.length
  | .smDirectVerify _ ops => 1 + ops.length
  | .smDirectBit _ ops => 1 + ops.length
  | .smDirectWrite _ ops => 1 + ops.length
  | .smRegVerify _ ops => 1 + ops.length
  | .smRegWrite _ ops => 1 + ops.length
  | .accBasic _ _ _ _ _ ops => 2 + ops.length
  | .accExt _ _ _ ops => 2 + ops.length
  | .accNop _ _ _ _ ops => 2 + ops.length
  | .idle ops => 2 + ops.length
  | .sysCmd _ ops => 2 + ops.length

/-- Where an instruction may stand in a packet. -/
inductive Place where
  /-- After a multi-function address only. -/
  | multiFunction
  /-- After a multi-function or an accessory address (opcodes 0xE0 to 0xEF). -/
  | cvAccess
  /-- The whole content of a service-mode packet. -/
  | service
  /-- The whole content of an accessory, idle or system packet. -/
  | packet
deriving DecidableEq, Repr

/-- The place of each instruction (the `context` of its row of opcode_table.json). -/
def Instr.place : Instr → Place
  | .pomVerify _ _ => .cvAccess
  | .pomBit _ _ => .cvAccess
  | .pomWrite _ _ => .cvAccess
  | .xpomRead _ _ => .cvAccess
  | .xpomBit _ _ => .cvAccess
  | .xpomWrite _ _ => .cvAccess
  | .smDirectVerify _ _ => .service
  | .smDirectBit _ _ => .service
  | .smDirectWrite _ _ => .service
  | .smRegVerify _ _ => .service
  | .smRegWrite _ _ => .service
  | .accBasic _ _ _ _ _ _ => .packet
  | .accExt _ _ _ _ => .packet
  | .accNop _ _ _ _ _ => .packet
  | .idle _ => .packet
  | .sysCmd _ _ => .packet
  | .reset _ => .multiFunction
  | .hardReset _ => .multiFunction
  | .factoryTest _ _ => .multiFunction
  | .setDecoderFlags _ _ => .multiFunction
  | .setAdvAddr _ _ => .multiFunction
  | .ackRequest _ _ => .multiFunction
  | .consistNormal _ => .multiFunction
  | .consistReverse _ => .multiFunction
  | .speed128 _ => .multiFunction
  | .restrictedSpeed _ => .multiFunction
  | .analogFunction _ => .multiFunction
  | .speedRev _ _ _ => .multiFunction
  | .speedFwd _ _ _ => .multiFunction
  | .fg1 _ _ _ => .multiFunction
  | .fg2F5F8 _ _ => .multiFunction
  | .fg2F9F12 _ _ => .multiFunction
  | .binstateLong _ => .multiFunction
  | .modelTime _ _ => .multiFunction
  | .modelDate _ _ => .multiFunction
  | .systemTime _ _ => .multiFunction
  | .f29F36 _ => .multiFunction
  | .f37F44 _ => .multiFunction
  | .f45F52 _ => .multiFunction
  | .f53F60 _ => .multiFunction
  | .f61F68 _ => .multiFunction
  | .binstateShort _ => .multiFunction
  | .f13F20 _ => .multiFunction
  | .f21F28 _ => .multiFunction
  | .cvAccel _ => .multiFunction
  | .cvDecel _ => .multiFunction
  | .cvLongaddr _ => .multiFunction
  | .cvIndex _ => .multiFunction
  | .decoderLock _ => .multiFunction

/-- The constraints a row puts on the operand bytes: POM has at most 2 and XPOM at least 3 (44_cv_access.md
R280), a service-mode packet has exactly 2 or 1 (R298), an accessory packet is not of its POM shape
(42_dispatch.md R195, R198), a system command is not 0 (R192). -/
def Instr.operandsOk : Instr → Bool
  | .pomVerify _ ops => decide (ops.length ≤ 2)
  | .pomBit _ ops => decide (ops.length ≤ 2)
  | .pomWrite _ ops => decide (ops.length ≤ 2)
  | .xpomRead _ ops => decide (3 ≤ ops.length)
  | .xpomBit _ ops => decide (3 ≤ ops.length)
  | .xpomWrite _ ops => decide (3 ≤ ops.length)
  | .smDirectVerify _ ops => ops.length == 2
  | .smDirectBit _ ops => ops.length == 2
  | .smDirectWrite _ ops => ops.length == 2
  | .smRegVerify _ ops => ops.length == 1
  | .smRegWrite _ ops => ops.length == 1
  | .accBasic _ _ _ _ _ ops => !(ops.head?.any cvShaped)
  | .accExt _ _ _ ops => !(decide (2 ≤ ops.length) && ops.head?.any cvShaped)
  | .sysCmd n _ => n != 0
  | _ => true

/-- The packet buffer holds `P_MAX_PKT` bytes, one of them the checksum (41_framer.md R152). -/
def maxContent : Nat := Config.maxPkt - 1

/-- A well-formed instruction: operands its row admits, and a size that fits a packet with at least the
one address byte it needs before it. -/
def Instr.wf (i : Instr) : Bool :=
  i.operandsOk &&
    (match i.place with
      | .multiFunction => decide (1 + i.size ≤ maxContent)
      | .cvAccess => decide (1 + i.size ≤ maxContent)
      | .service => decide (i.size ≤ maxContent)
      | .packet => decide (i.size ≤ maxContent))

/-- The content bytes of a header. -/
def Header.size : Header → Nat
  | .bare => 0
  | .broadcast => 1
  | .mf7 _ => 1
  | .mf14 _ _ => 2
  | .reserved _ => 1
  | .idleSystem => 1
  | .accPom _ _ _ _ => 2
  | .accExtPom _ _ _ => 2

/-- May instruction `i` follow header `h` when `MODE.SERVICE_MODE = svc`? An accessory POM needs at least 3
content bytes with a basic and 4 with an extended address (42_dispatch.md R195, R198); a 7-bit address is 1
to 127, and 1 to 111 in service mode (R187, R188); a 14-bit address byte is 192 to 231 (R189). -/
def headerFits (svc : Bool) (h : Header) (i : Instr) : Bool :=
  match h with
  | .bare =>
    match i.place with
    | .multiFunction => false
    | .cvAccess => false
    | .service => svc
    | .packet => true
  | .broadcast => i.place == .multiFunction || i.place == .cvAccess
  | .mf7 a =>
    (i.place == .multiFunction || i.place == .cvAccess) && a != 0 && !(svc && decide (112 ≤ a.toNat))
  | .mf14 hi _ => (i.place == .multiFunction || i.place == .cvAccess) && decide (hi.toNat ≤ 39)
  | .reserved _ => false
  | .idleSystem => false
  | .accPom _ _ _ _ => i.place == .cvAccess
  | .accExtPom _ _ _ => i.place == .cvAccess && decide (2 ≤ i.size)

/-- A well-formed packet content: header and instruction that fit together and fit the packet buffer. -/
def packetWf (svc : Bool) (h : Header) (i : Instr) : Bool :=
  i.wf && headerFits svc h i && decide (h.size + i.size ≤ maxContent)

end Sys2Proof
end

