-- ==== Sys2Proof/Decode.lean ====
section
/-! DEFINITION. The decoder's grammar (42_dispatch.md R185 to R200, 43_multifunction.md R220 to R254,
44_cv_access.md R280 to R305): which instruction a packet's content holds, total on any bytes, what it is not
rejected by name. After it the encoder, from the layouts of 30_encoding.md R83 to R86, and the reading of an
opcode-table word. What an instruction emits is its meaning's (Machine/). -/

namespace Sys2Proof

/-! ### Multi-function instructions -/

/-- Class 000 (43_multifunction.md R221 to R229). -/
def decodeControl (pos : Nat) (other : Bool) (op : Byte) (ops : List Byte) : Body :=
  if op = 0x00#8 then .instr (.reset ops)
  else if op = 0x01#8 then .instr (.hardReset ops)
  else if op = 0x12#8 then .instr (.consistNormal ops)
  else if op = 0x13#8 then .instr (.consistReverse ops)
  else if op.extractLsb' 1 7 = 0b0000001#7 then .instr (.factoryTest (op.extractLsb' 0 1) ops)
  else if op.extractLsb' 1 7 = 0b0000011#7 then .instr (.setDecoderFlags (op.extractLsb' 0 1) ops)
  else if op.extractLsb' 1 7 = 0b0000101#7 then .instr (.setAdvAddr (op.extractLsb' 0 1) ops)
  else if op.extractLsb' 1 7 = 0b0000111#7 then .instr (.ackRequest (op.extractLsb' 0 1) ops)
  else .reject (.unknown pos other)

/-- Class 001 (43_multifunction.md R230 to R233). -/
def decodeAdvanced (pos : Nat) (other : Bool) (op : Byte) (ops : List Byte) : Body :=
  if op = 0x3F#8 then .instr (.speed128 ops)
  else if op = 0x3E#8 then .instr (.restrictedSpeed ops)
  else if op = 0x3D#8 then .instr (.analogFunction ops)
  else .reject (.unknown pos other)

/-- The time commands: the byte after 0xC1 chooses the form (43_multifunction.md R241). -/
def decodeTime (pos : Nat) (other : Bool) (ops : List Byte) : Body :=
  match ops with
  | [] => .reject (.missing (pos + 1))
  | t :: rest =>
    if t.extractLsb' 6 2 = 0b00#2 then .instr (.modelTime (t.extractLsb' 0 6) rest)
    else if t.extractLsb' 6 2 = 0b01#2 then .instr (.modelDate (t.extractLsb' 0 6) rest)
    else if t.extractLsb' 6 2 = 0b10#2 then .instr (.systemTime (t.extractLsb' 0 6) rest)
    else .reject (.unknown pos other)

/-- Class 110 (43_multifunction.md R240 to R253). -/
def decodeFeature (pos : Nat) (other : Bool) (op : Byte) (ops : List Byte) : Body :=
  if op = 0xC0#8 then .instr (.binstateLong ops)
  else if op = 0xC1#8 then decodeTime pos other ops
  else if op = 0xD8#8 then .instr (.f29F36 ops)
  else if op = 0xD9#8 then .instr (.f37F44 ops)
  else if op = 0xDA#8 then .instr (.f45F52 ops)
  else if op = 0xDB#8 then .instr (.f53F60 ops)
  else if op = 0xDC#8 then .instr (.f61F68 ops)
  else if op = 0xDD#8 then .instr (.binstateShort ops)
  else if op = 0xDE#8 then .instr (.f13F20 ops)
  else if op = 0xDF#8 then .instr (.f21F28 ops)
  else .reject (.unknown pos other)

/-- Opcodes 0xE0 to 0xEF: POM, or XPOM when at least 3 bytes follow (44_cv_access.md R280 to R290). -/
def decodeCvAccess (pos : Nat) (other : Bool) (op : Byte) (ops : List Byte) : Body :=
  let low := op.extractLsb' 0 2
  let cc := op.extractLsb' 2 2
  if cc = 0b01#2 then
    if 3 ≤ ops.length then .instr (.xpomRead low ops) else .instr (.pomVerify low ops)
  else if cc = 0b10#2 then
    if 3 ≤ ops.length then .instr (.xpomBit low ops) else .instr (.pomBit low ops)
  else if cc = 0b11#2 then
    if 3 ≤ ops.length then .instr (.xpomWrite low ops) else .instr (.pomWrite low ops)
  else .reject (.unknown pos other)

/-- Opcodes 0xF0 to 0xFF (44_cv_access.md R291 to R297). -/
def decodeShortForm (pos : Nat) (other : Bool) (op : Byte) (ops : List Byte) : Body :=
  if op = 0xF2#8 then .instr (.cvAccel ops)
  else if op = 0xF3#8 then .instr (.cvDecel ops)
  else if op = 0xF4#8 then .instr (.cvLongaddr ops)
  else if op = 0xF5#8 then .instr (.cvIndex ops)
  else if op = 0xF9#8 then .instr (.decoderLock ops)
  else .reject (.unknown pos other)

/-- The multi-function instruction whose opcode is content byte `pos` (43_multifunction.md R220, R254). -/
def decodeMf (pos : Nat) (other : Bool) (bytes : List Byte) : Body :=
  match bytes with
  | [] => .reject (.missing pos)
  | op :: ops =>
    match (op.extractLsb' 5 3).toNat with
    | 0 => decodeControl pos other op ops
    | 1 => decodeAdvanced pos other op ops
    | 2 => .instr (.speedRev (op.extractLsb' 4 1) (op.extractLsb' 0 4) ops)
    | 3 => .instr (.speedFwd (op.extractLsb' 4 1) (op.extractLsb' 0 4) ops)
    | 4 => .instr (.fg1 (op.extractLsb' 4 1) (op.extractLsb' 0 4) ops)
    | 5 =>
      if op.extractLsb' 4 1 = 1#1 then .instr (.fg2F5F8 (op.extractLsb' 0 4) ops)
      else .instr (.fg2F9F12 (op.extractLsb' 0 4) ops)
    | 6 => decodeFeature pos other op ops
    | _ =>
      if op.extractLsb' 4 1 = 0#1 then decodeCvAccess pos other op ops
      else decodeShortForm pos other op ops

/-! ### Service-mode and accessory packets -/

/-- A service-mode packet with byte 0 = `a` (44_cv_access.md R298 to R305). The packet length L is 4 when two
content bytes follow `a` and 3 when one does; with none L is 1 or 2, which R305 treats alike. -/
def decodeService (a : Byte) (rest : List Byte) : Body :=
  match rest.length with
  | 2 =>
    if a.extractLsb' 2 2 = 0b01#2 then .instr (.smDirectVerify (a.extractLsb' 0 2) rest)
    else if a.extractLsb' 2 2 = 0b10#2 then .instr (.smDirectBit (a.extractLsb' 0 2) rest)
    else if a.extractLsb' 2 2 = 0b11#2 then .instr (.smDirectWrite (a.extractLsb' 0 2) rest)
    else .reject (.unknown 0 false)
  | 1 =>
    if a.extractLsb' 3 1 = 0#1 then .instr (.smRegVerify (a.extractLsb' 0 3) rest)
    else .instr (.smRegWrite (a.extractLsb' 0 3) rest)
  | _ => .reject (.unknown 0 true)

/-- An accessory packet with byte 0 = `a` (42_dispatch.md R193 to R200). -/
def decodeAccessory (a : Byte) (rest : List Byte) : Packet :=
  match rest with
  | [] => ⟨.bare, .reject (.missing 1)⟩
  | b :: ops =>
    let lo := a.extractLsb' 0 6
    let hi := b.extractLsb' 4 3
    let port := b.extractLsb' 1 2
    if b.extractLsb' 7 1 = 1#1 then
      match ops with
      | op :: more =>
        if cvShaped op then
          ⟨.accPom lo hi (b.extractLsb' 3 1) (b.extractLsb' 0 3), decodeCvAccess 2 false op more⟩
        else ⟨.bare, .instr (.accBasic lo hi (b.extractLsb' 3 1) port (b.extractLsb' 0 1) ops)⟩
      | [] => ⟨.bare, .instr (.accBasic lo hi (b.extractLsb' 3 1) port (b.extractLsb' 0 1) [])⟩
    else if b.extractLsb' 3 1 = 1#1 then
      ⟨.bare, .instr (.accNop lo hi port (b.extractLsb' 0 1) ops)⟩
    else if b.extractLsb' 0 1 = 1#1 then
      match ops with
      | op :: second :: more =>
        if cvShaped op then ⟨.accExtPom lo hi port, decodeCvAccess 2 false op (second :: more)⟩
        else ⟨.bare, .instr (.accExt lo hi port ops)⟩
      | _ => ⟨.bare, .instr (.accExt lo hi port ops)⟩
    else ⟨.bare, .reject (.unknown 0 false)⟩

/-! ### Dispatch on byte 0 -/

/-- The decoder on a packet's content (42_dispatch.md R185); `svc` is `MODE.SERVICE_MODE`. The `other` flag of
a multi-function packet is set for byte 0 in 112 to 127, which comes here only in operations mode (R184, R187,
43_multifunction.md R220). A packet has at least one content byte (R180); the empty list is no packet. -/
def decodePacket (svc : Bool) (content : List Byte) : Packet :=
  match content with
  | [] => ⟨.bare, .reject (.missing 0)⟩
  | a :: rest =>
    if a.toNat = 0 then ⟨.broadcast, decodeMf 1 false rest⟩
    else if a.toNat < 128 then
      if svc && decide (112 ≤ a.toNat) then ⟨.bare, decodeService a rest⟩
      else ⟨.mf7 (a.extractLsb' 0 7), decodeMf 1 (decide (112 ≤ a.toNat)) rest⟩
    else if a.toNat < 192 then decodeAccessory a rest
    else if a.toNat < 232 then
      match rest with
      | [] => ⟨.bare, .reject (.missing 1)⟩
      | b :: more => ⟨.mf14 (a.extractLsb' 0 6) b, decodeMf 2 false more⟩
    else if a.toNat < 255 then ⟨.reserved a, .reject .reservedAddress⟩
    else
      match rest with
      | [] => ⟨.idleSystem, .reject (.missing 1)⟩
      | b :: more => ⟨.bare, .instr (if b = 0#8 then .idle more else .sysCmd b more)⟩

/-! ### Encoder -/

/-- The content bytes of an instruction, from the encodings of opcode_table.json (30_encoding.md R84 to R86). -/
def encode : Instr → List Byte
  | .reset ops => 0x00#8 :: ops
  | .hardReset ops => 0x01#8 :: ops
  | .factoryTest f ops => (0b0000001#7 ++ f) :: ops
  | .setDecoderFlags f ops => (0b0000011#7 ++ f) :: ops
  | .setAdvAddr f ops => (0b0000101#7 ++ f) :: ops
  | .ackRequest f ops => (0b0000111#7 ++ f) :: ops
  | .consistNormal ops => 0x12#8 :: ops
  | .consistReverse ops => 0x13#8 :: ops
  | .speed128 ops => 0x3F#8 :: ops
  | .restrictedSpeed ops => 0x3E#8 :: ops
  | .analogFunction ops => 0x3D#8 :: ops
  | .speedRev c s ops => (0b010#3 ++ c ++ s) :: ops
  | .speedFwd c s ops => (0b011#3 ++ c ++ s) :: ops
  | .fg1 f0 f ops => (0b100#3 ++ f0 ++ f) :: ops
  | .fg2F5F8 f ops => (0b1011#4 ++ f) :: ops
  | .fg2F9F12 f ops => (0b1010#4 ++ f) :: ops
  | .binstateLong ops => 0xC0#8 :: ops
  | .modelTime m ops => 0xC1#8 :: (0b00#2 ++ m) :: ops
  | .modelDate m ops => 0xC1#8 :: (0b01#2 ++ m) :: ops
  | .systemTime m ops => 0xC1#8 :: (0b10#2 ++ m) :: ops
  | .f29F36 ops => 0xD8#8 :: ops
  | .f37F44 ops => 0xD9#8 :: ops
  | .f45F52 ops => 0xDA#8 :: ops
  | .f53F60 ops => 0xDB#8 :: ops
  | .f61F68 ops => 0xDC#8 :: ops
  | .binstateShort ops => 0xDD#8 :: ops
  | .f13F20 ops => 0xDE#8 :: ops
  | .f21F28 ops => 0xDF#8 :: ops
  | .pomVerify v ops => (0b111001#6 ++ v) :: ops
  | .pomBit v ops => (0b111010#6 ++ v) :: ops
  | .pomWrite v ops => (0b111011#6 ++ v) :: ops
  | .xpomRead ss ops => (0b111001#6 ++ ss) :: ops
  | .xpomBit ss ops => (0b111010#6 ++ ss) :: ops
  | .xpomWrite ss ops => (0b111011#6 ++ ss) :: ops
  | .cvAccel ops => 0xF2#8 :: ops
  | .cvDecel ops => 0xF3#8 :: ops
  | .cvLongaddr ops => 0xF4#8 :: ops
  | .cvIndex ops => 0xF5#8 :: ops
  | .decoderLock ops => 0xF9#8 :: ops
  | .smDirectVerify a ops => (0b011101#6 ++ a) :: ops
  | .smDirectBit a ops => (0b011110#6 ++ a) :: ops
  | .smDirectWrite a ops => (0b011111#6 ++ a) :: ops
  | .smRegVerify r ops => (0b01110#5 ++ r) :: ops
  | .smRegWrite r ops => (0b01111#5 ++ r) :: ops
  | .accBasic lo hi d port r ops => (0b10#2 ++ lo) :: (1#1 ++ hi ++ d ++ port ++ r) :: ops
  | .accExt lo hi port ops => (0b10#2 ++ lo) :: (0#1 ++ hi ++ 0#1 ++ port ++ 1#1) :: ops
  | .accNop lo hi port t ops => (0b10#2 ++ lo) :: (0#1 ++ hi ++ 1#1 ++ port ++ t) :: ops
  | .idle ops => 0xFF#8 :: 0x00#8 :: ops
  | .sysCmd n ops => 0xFF#8 :: n :: ops

/-- The content bytes of a header (30_encoding.md R83, R84). -/
def encodeHeader : Header → List Byte
  | .bare => []
  | .broadcast => [0x00#8]
  | .mf7 a => [0#1 ++ a]
  | .mf14 hi lo => [0b11#2 ++ hi, lo]
  | .reserved a => [a]
  | .idleSystem => [0xFF#8]
  | .accPom lo hi c ddd => [0b10#2 ++ lo, 1#1 ++ hi ++ c ++ ddd]
  | .accExtPom lo hi port => [0b10#2 ++ lo, 0#1 ++ hi ++ 0#1 ++ port ++ 1#1]

/-- A packet's content: header, then instruction. -/
def encodePacket (h : Header) (i : Instr) : List Byte := encodeHeader h ++ encode i

/-- The checksum byte of a content: the XOR of its bytes (41_framer.md R157). -/
def xorBytes (bytes : List Byte) : Byte := bytes.foldl (· ^^^ ·) 0#8

/-! ### Opcode-table words (log entry 5) -/

/-- Operand bytes of the row a multi-function opcode belongs to (30_encoding.md R85, R86); POM for the opcodes
it shares with XPOM. -/
def operandBytes (op : Byte) : Nat :=
  if op.extractLsb' 4 4 = 0b1110#4 then 2
  else if op ∈ [0x3D#8, 0xC0#8, 0xF4#8, 0xF5#8] then 2
  else if op = 0xC1#8 then 3
  else if op ∈ [0x06#8, 0x07#8, 0x12#8, 0x13#8, 0x3E#8, 0x3F#8, 0xF2#8, 0xF3#8, 0xF9#8] then 1
  else if 0xD8 ≤ op.toNat ∧ op.toNat ≤ 0xDF then 1
  else 0

/-- The `k` bytes of `w`, the first in bits 7:0. -/
def wordBytes (w : Nat) : Nat → List Byte
  | 0 => []
  | k + 1 => BitVec.ofNat 8 w :: wordBytes (w / 256) k

/-- The bytes of an opcode-table word. A row that fixes 16 bits numbers its first byte as bits 15:8 (the
table's "opcode<<8 | next byte" and "byte0<<8 | byte1"); every other word has its first byte in bits 7:0. -/
def tableBytes (nbits w : Nat) : List Byte :=
  if 256 ≤ w ∧ w < 65536 ∧ nbits ≤ 16 then [BitVec.ofNat 8 (w / 256), BitVec.ofNat 8 w]
  else wordBytes w (max 1 (nbits / 8))

/-- `bytes`, with zero bytes after them up to `n`. -/
def padTo (n : Nat) (bytes : List Byte) : List Byte := bytes ++ List.replicate (n - bytes.length) 0#8

/-- The packet content that stands for an opcode-table word, in the context the row names, and the
`MODE.SERVICE_MODE` that context needs: byte 0 of a service-mode packet for 0x70 to 0x7F (direct mode unless
only register mode has such a row, or the word is 2 bytes long), bytes 0 and 1 of an accessory or system packet
for a 16-bit word that begins with 128 to 191 or 255, else an opcode after the 7-bit address 3. -/
def tableContent (nbits w : Nat) : Bool × List Byte :=
  match tableBytes nbits w with
  | [] => (false, [])
  | a :: rest =>
    if a.extractLsb' 4 4 = 0x7#4 then
      (true, if a.extractLsb' 2 2 = 0#2 || rest.length == 1 then padTo 2 (a :: rest) else padTo 3 (a :: rest))
    else if rest ≠ [] ∧ (a.extractLsb' 6 2 = 0b10#2 ∨ a = 0xFF#8) then
      match decodePacket false (a :: rest) with
      | ⟨_, .instr (.accExt _ _ _ _)⟩ => (false, padTo 3 (a :: rest))
      | _ => (false, a :: rest)
    else (false, 0x03#8 :: padTo (1 + operandBytes a) (a :: rest))

/-- The instruction the decoder reads from an opcode-table word whose bits are `w`, `nbits` of them named by
the table (log entry 5). -/
def decodeTableWord (nbits w : Nat) : Option Instr :=
  let c := tableContent nbits w
  match (decodePacket c.1 c.2).body with
  | .instr i => some i
  | .reject _ => none

end Sys2Proof
end

