-- ==== Sys2Proof/Machine/State.lean ====
section
/-! DEFINITION. The state of the block (10_state.md R24 to R43), of the three ports' host side (log entries 1
and 3), the reasons a step can stop, and the machine after hardware reset (10_state.md R42). Plain data. -/

namespace Sys2Proof.Machine

/-- One output record (10_state.md R22, 30_encoding.md R96). -/
structure Record where
  kind : BitVec 4
  start : Ts
  stop : Ts
  a0 : Word
  a1 : Word
  a2 : Word
  a3 : Word
deriving DecidableEq, Repr

/-- One completed byte of the packet buffer with its sample range (10_state.md R37). -/
structure PktByte where
  val : Byte
  start : Ts
  stop : Ts
deriving DecidableEq, Repr

/-- `st.phase`: the edge of the window the block awaits (10_state.md R35). -/
inductive Phase where
  | start
  | mid
  | stop
deriving DecidableEq, Repr

/-- `st.fsm`: the framer's state (10_state.md R36). -/
inductive Fsm where
  | wait
  | pre
  | data
deriving DecidableEq, Repr

/-- The datapath state of 10_state.md R33 to R37. A level or polarity of `true` is 1. -/
structure Datapath where
  /-- R33: the timestamp of the last accepted edge, when there is one. -/
  lastValid : Bool
  lastTs : Ts
  /-- R34: the edge the short-pulse filter holds back. -/
  pendValid : Bool
  pendTs : Ts
  pendLevel : Bool
  /-- R34: samples of short pulses deleted since it was last cleared. -/
  accShort : BitVec 64
  /-- R35: the level that starts a bit, and the window. -/
  pol : Bool
  phase : Phase
  t1 : Ts
  t2 : Ts
  /-- R36: the framer. -/
  fsm : Fsm
  preCnt : BitVec 16
  preStart : Ts
  bitcnt : Nat
  acc : Byte
  byteStart : Ts
  byteEnd : Ts
  /-- R37: the bytes of the packet in progress; `st.pkt_len` is its length. -/
  pkt : List PktByte
deriving DecidableEq, Repr

/-- The decode cursor (42_dispatch.md R182) and the address that 43_multifunction.md R220 passes to the
instruction. It is set by the step that finalises a packet and cleared in the same step (10_state.md R39, log
entry 6). -/
structure Cursor where
  pos : Nat
  kind : AddrKind
  addr : BitVec 14
deriving DecidableEq, Repr

/-- One interaction of the host with the block (60_exceptions.md R339). -/
inductive HostAct where
  /-- Offer an edge (10_state.md R21). -/
  | edge (ts : Ts) (level : Bool)
  /-- Be ready for one record (10_state.md R22). -/
  | accept
  /-- `MemRead(offset, 4)` (20_memory.md R61). -/
  | memRead (offset : Nat)
  /-- `MemWrite(offset, 4, v)` (20_memory.md R61). -/
  | memWrite (offset : Nat) (v : Word)
  /-- Hardware reset (70_reset_and_hazards.md R350). -/
  | hardReset
deriving DecidableEq, Repr

/-- The host's side of the ports: the model's own fields (log entries 1 and 3). -/
structure HostSide where
  /-- What the host has still to present, in order. -/
  script : List HostAct
  /-- The records the host has accepted, oldest first. -/
  taken : List Record
  /-- The values its reads have returned, oldest first. -/
  reads : List Word
deriving DecidableEq, Repr

/-- The whole machine. -/
structure State where
  /-- STATUS bits 0 to 2 (10_state.md R32). -/
  running : Bool
  cfgErr : Bool
  tsErr : Bool
  /-- The configuration registers, the bits that are stored (10_state.md R24 to R28). -/
  samplerate : BitVec 32
  tolPm : BitVec 10
  shortThrNs : BitVec 32
  mode : BitVec 3
  accOffset : BitVec 16
  dp : Datapath
  /-- The output queue, oldest record first (10_state.md R38). -/
  outq : List Record
  cur : Cursor
  host : HostSide
deriving DecidableEq, Repr

/-- Why a step stops the machine. -/
inductive Fault where
  /-- Raised by a register access whose offset is not in the 256-byte space (20_memory.md R60). Safe: the
  space has no such offset, so the hardware has no behaviour there (log entry 8). -/
  | outsideRegisterSpace (offset : Nat)
deriving DecidableEq, Repr

/-- Why a step is refused. -/
inductive Refusal where
  /-- An instruction that has no meaning yet, raised by its arm of `exec`. Safe. No arm raises it now. -/
  | notModelled (mnemonic : String)
deriving DecidableEq, Repr

/-- The datapath's reset values (10_state.md R42). -/
def Datapath.reset : Datapath where
  lastValid := false
  lastTs := 0
  pendValid := false
  pendTs := 0
  pendLevel := false
  accShort := 0
  pol := true
  phase := .start
  t1 := 0
  t2 := 0
  fsm := .wait
  preCnt := 0
  preStart := 0
  bitcnt := 0
  acc := 0
  byteStart := 0
  byteEnd := 0
  pkt := []

/-- The cursor outside a packet: position 0 (42_dispatch.md R182, log entry 6). -/
def Cursor.idle : Cursor := ⟨0, .broadcast, 0⟩

/-- The machine after hardware reset (10_state.md R42, 70_reset_and_hazards.md R350), with a host that has
nothing to present (log entry 1). -/
def State.reset : State where
  running := false
  cfgErr := false
  tsErr := false
  samplerate := 0
  tolPm := 0
  shortThrNs := 4000
  mode := 0
  accOffset := 0
  dp := Datapath.reset
  outq := []
  cur := Cursor.idle
  host := ⟨[], [], []⟩

end Sys2Proof.Machine
end

