-- ==== Sys2Proof/Machine/Ops.lean ====
section
/-! DEFINITION. The named operations over the state: sequencing, emitting records, resynchronisation (the
block's analogue of taking an exception, 60_exceptions.md R329), reset and start, and the mode flags. -/

namespace Sys2Proof.Machine

/-- What a step or a part of one answers. -/
abbrev Out := Host.Outcome State Fault Refusal

/-- Go on with `f` from the next state; a fault or a refusal stands. -/
def andThen (o : Out) (f : State → Out) : Out :=
  match o with
  | .next s => f s
  | .fault r => .fault r
  | .refused r => .refused r

/-! ### Updates -/

/-- Append records to the output queue, in order (00_scope.md R13, 20_memory.md R69). -/
def State.emit (s : State) (rs : List Record) : State := { s with outq := s.outq ++ rs }

/-- Replace the datapath. -/
def State.withDp (s : State) (d : Datapath) : State := { s with dp := d }

/-- Replace the decode cursor. -/
def State.withCur (s : State) (c : Cursor) : State := { s with cur := c }

/-- Replace what the host has still to present. -/
def State.withScript (s : State) (l : List HostAct) : State :=
  { s with host := { s.host with script := l } }

/-! ### Mode flags (10_state.md R27) -/

/-- `MODE.SERVICE_MODE`, bit 0. -/
def State.serviceMode (s : State) : Bool := s.mode.getLsbD 0

/-- `MODE.SPEED14`, bit 1. -/
def State.speed14 (s : State) : Bool := s.mode.getLsbD 1

/-- `MODE.IGNORE_SHORT`, bit 2. -/
def State.ignoreShort (s : State) : Bool := s.mode.getLsbD 2

/-! ### Records -/

/-- A 32-bit record argument, zero-extended from a field (30_encoding.md R96). -/
def arg {n : Nat} (v : BitVec n) : Word := v.setWidth 32

/-- A 32-bit record argument from a count or an index. -/
def argNat (n : Nat) : Word := BitVec.ofNat 32 n

/-- A record with the arguments it names; the others are 0 (30_encoding.md R96, R97). -/
def mkRecord (kind : BitVec 4) (start stop : Ts) (a0 a1 a2 : Word) : Record :=
  ⟨kind, start, stop, a0, a1, a2, 0⟩

/-- Record kinds (30_encoding.md R97). -/
def kindBit : BitVec 4 := 1
def kindRailcom : BitVec 4 := 2
def kindResync : BitVec 4 := 3
def kindPreamble : BitVec 4 := 4
def kindByte : BitVec 4 := 5
def kindField : BitVec 4 := 6
def kindChecksum : BitVec 4 := 7
def kindPacketEnd : BitVec 4 := 8

/-- RESYNC reasons (30_encoding.md R101). -/
def reasonTiming : Word := 1
def reasonPolarity : Word := 2
def reasonShortPreamble : Word := 3
def reasonTooLong : Word := 4

/-! ### Saturating sums (00_scope.md R11: `sat_N`) -/

/-- `sat_N(v)`: the least of `v` and 2^N - 1. -/
def sat (n : Nat) (v : Nat) : BitVec n := BitVec.ofNat n (min v (2 ^ n - 1))

/-! ### Resynchronisation, reset, start -/

/-- The resynchronisation action `resync(reason, count) [start, stop]` (41_framer.md R141): the block's
recovery from every timing and framing error. The polarity, the window and the filter are not touched. -/
def resync (reason count : Word) (start stop : Ts) (s : State) : State :=
  (s.emit [mkRecord kindResync start stop reason count 0]).withDp
    { s.dp with fsm := .wait, pkt := [], accShort := 0 }

/-- Hardware reset (70_reset_and_hazards.md R350). The host's side is the host's and stays (log entry 3). -/
def hardReset (s : State) : State := { State.reset with host := s.host }

/-- Soft reset (70_reset_and_hazards.md R352): stops the block, clears the status bits, resets the datapath,
discards pending records, keeps the configuration. -/
def softReset (s : State) : State :=
  { s with running := false, cfgErr := false, tsErr := false, dp := Datapath.reset, outq := [] }

/-- The start check fails: SAMPLERATE below `P_FS_MIN` or TOL_PM above `P_TOL_MAX` (10_state.md R31). -/
def startRefused (s : State) : Bool :=
  decide (s.samplerate.toNat < Config.fsMin) || decide (Config.tolMax < s.tolPm.toNat)

/-- START while stopped (10_state.md R31, 70_reset_and_hazards.md R353, 60_exceptions.md R323). -/
def start (s : State) : State :=
  if startRefused s then { s with cfgErr := true }
  else
    { s with
      running := true, cfgErr := false, tsErr := false, dp := Datapath.reset, outq := [] }

end Sys2Proof.Machine
end

