-- ==== Sys2Proof/Machine/Classifier.lean ====
section
/-! DEFINITION. The edge timing classifier's pure part (40_classifier.md R118 to R124) and the advance of the
window (R125 to R127).

A duration of `d` samples is `d * 1000000 / FS` microseconds, and every comparison with a threshold is exact
(00_scope.md R12): both sides are multiplied by FS, and by 1000 where the tolerance `TOL_PM / 1000` takes
part, so all are comparisons of natural numbers. -/

namespace Sys2Proof.Machine

/-- The five classes (40_classifier.md R118, 90_conflicts.md C9). -/
inductive WindowClass where
  | one
  | zero
  | straddle
  | railcom
  | unknown
deriving DecidableEq, Repr

/-- `us(d) ≥ x`. -/
def usGe (fs d x : Nat) : Bool := decide (x * fs ≤ d * 1000000)

/-- `us(d) ≤ x`. -/
def usLe (fs d x : Nat) : Bool := decide (d * 1000000 ≤ x * fs)

/-- `52 * (1 - tol) ≤ us(d) ≤ 64 * (1 + tol)` (R119). -/
def oneHalf (fs tol d : Nat) : Bool :=
  decide (52 * 1000 * fs ≤ d * 1000000000 + 52 * tol * fs) && decide (d * 1000000000 ≤ 64 * (1000 + tol) * fs)

/-- `|part1 - part2| ≤ max(6, 2 * tol * total)` (R119); `d1 - d2 + (d2 - d1)` is the absolute difference. -/
def oneDifference (fs tol d1 d2 : Nat) : Bool :=
  let diff := d1 - d2 + (d2 - d1)
  usLe fs diff 6 || decide (diff * 1000 ≤ 2 * tol * (d1 + d2))

/-- ONE (R119). -/
def isOne (fs tol d1 d2 : Nat) : Bool := oneHalf fs tol d1 && oneHalf fs tol d2 && oneDifference fs tol d1 d2

/-- ZERO (R120): one half in [90, 119] us and the other in [90, 10000] us. -/
def isZero (fs d1 d2 : Nat) : Bool :=
  (usGe fs d1 90 && usLe fs d1 10000 && usGe fs d2 90 && usLe fs d2 119) ||
    (usGe fs d2 90 && usLe fs d2 10000 && usGe fs d1 90 && usLe fs d1 119)

/-- The stretched flag of a ZERO: the longer half exceeds 119 us (R121). -/
def isStretched (fs d1 d2 : Nat) : Bool := !usLe fs (max d1 d2) 119

/-- STRADDLE (R122): `128 * (1 + tol) < total < 180`. -/
def isStraddle (fs tol d1 d2 : Nat) : Bool :=
  decide (128 * (1000 + tol) * fs < (d1 + d2) * 1000000000) && !usGe fs (d1 + d2) 180

/-- RAILCOM (R123): `454 ≤ total ≤ 613`. -/
def isRailcom (fs d1 d2 : Nat) : Bool := usGe fs (d1 + d2) 454 && usLe fs (d1 + d2) 613

/-- The class and the stretched flag of a window with halves of `d1` and `d2` samples: the first class that
holds, in the order of R118. -/
def classifyHalves (fs tol d1 d2 : Nat) : WindowClass × Bool :=
  if isOne fs tol d1 d2 then (.one, false)
  else if isZero fs d1 d2 then (.zero, isStretched fs d1 d2)
  else if isStraddle fs tol d1 d2 then (.straddle, false)
  else if isRailcom fs d1 d2 then (.railcom, false)
  else (.unknown, false)

/-- `classify(t1, t2, t3)` (R118). In every run t1 < t2 < t3 (R110); elsewhere a negative duration counts as 0
(log entry 9). -/
def classify (s : State) (t1 t2 t3 : Ts) : WindowClass × Bool :=
  classifyHalves s.samplerate.toNat s.tolPm.toNat (t2.toNat - t1.toNat) (t3.toNat - t2.toNat)

/-- The window after a classified window whose third edge is `(t3, level)` (R125 to R127). -/
def advanceWindow (c : WindowClass) (t3 : Ts) (level : Bool) (d : Datapath) : Datapath :=
  match c with
  | .one => { d with t1 := t3, phase := .mid }
  | .zero => { d with t1 := t3, phase := .mid }
  | .railcom => { d with t1 := t3, phase := .mid }
  | .straddle => { d with pol := !d.pol, phase := .start }
  | .unknown => if level = d.pol then { d with t1 := t3, phase := .mid } else { d with phase := .start }

end Sys2Proof.Machine
end

