-- ==== Sys2Proof/Machine/Operands.lean ====
section
/-! DEFINITION. What decoding rules share: FIELD records over content bytes (42_dispatch.md R181), the cursor's
`take()`, `unclaimed()` and `unknown_from()` (R182 to R184), and the operand assembly of 30_encoding.md R87.

A decoding rule is written as the list of fields it emits, in order; a list that ends early is a decoder that
stopped. -/

namespace Sys2Proof.Machine

/-- A FIELD record before its sample range is known: code, arguments, and the first and last content byte it
is about. -/
structure Field where
  code : Word
  a1 : Word
  a2 : Word
  a3 : Word
  first : Nat
  last : Nat
deriving DecidableEq, Repr

/-- The start sample of content byte `k`; 0 where the buffer holds no such byte, which no rule reads
(10_state.md R43, log entry 7). -/
def byteStartAt (pkt : List PktByte) (k : Nat) : Ts := ((pkt[k]?).map PktByte.start).getD 0

/-- The end sample of content byte `k`; 0 where the buffer holds no such byte (as above). -/
def byteEndAt (pkt : List PktByte) (k : Nat) : Ts := ((pkt[k]?).map PktByte.stop).getD 0

/-- The FIELD record of a field: range `[c[i].start, c[j].end]` (42_dispatch.md R181). -/
def fieldRecord (pkt : List PktByte) (f : Field) : Record :=
  ⟨kindField, byteStartAt pkt f.first, byteEndAt pkt f.last, f.code, f.a1, f.a2, f.a3⟩

/-- Emit fields as records, in order. -/
def State.emitFields (s : State) (fs : List Field) : State := s.emit (fs.map (fieldRecord s.dp.pkt))

/-! ### Cursor -/

/-- `BYTE_MISSING(pos)` over the last content byte (42_dispatch.md R182). -/
def missingField (pos : Nat) : Field := ⟨0x03, argNat pos, 0, 0, pos - 1, pos - 1⟩

/-- `take()` at `pos` with the content bytes `ops` left: go on with the byte, or stop with BYTE_MISSING. -/
def take (pos : Nat) (ops : List Byte) (go : Byte → List Byte → List Field) : List Field :=
  match ops with
  | [] => [missingField pos]
  | d :: rest => go d rest

/-- One field for each byte, from content byte `pos` on. -/
def perByte (mk : Nat → Byte → Field) (pos : Nat) : List Byte → List Field
  | [] => []
  | d :: rest => mk pos d :: perByte mk (pos + 1) rest

/-- `unclaimed()` (42_dispatch.md R183). -/
def unclaimed (pos : Nat) (ops : List Byte) : List Field :=
  perByte (fun k d => ⟨0x04, arg d, 0, 0, k, k⟩) pos ops

/-- `unknown_from(pos, other)` over the content bytes from `pos` on (42_dispatch.md R184). -/
def unknownFrom (pos : Nat) (other : Bool) (bytes : List Byte) : List Field :=
  perByte (fun k d => ⟨0x05, arg d, if other then 1 else 0, 0, k, k⟩) pos bytes

/-! ### Fields that several rules emit -/

/-- `INSTR(id)` over byte `i` (30_encoding.md R98, R100). -/
def instrField (i : Nat) (id : Word) : Field := ⟨0x02, id, 0, 0, i, i⟩

/-- The codes of the address kinds (30_encoding.md R99). -/
def addrKindCode : AddrKind → Word
  | .broadcast => 0
  | .mf7 => 1
  | .mf14 => 2
  | .reserved => 3
  | .idleSystem => 4

/-- `ADDR(kind, value)` over bytes `first` to `last` (30_encoding.md R98). -/
def addrField (kind : AddrKind) (value : Word) (first last : Nat) : Field :=
  ⟨0x01, addrKindCode kind, value, 0, first, last⟩

/-- `FLAG(f)` (43_multifunction.md R223 to R226). -/
def flagField (i : Nat) (f : BitVec 1) : Field := ⟨0x13, arg f, 0, 0, i, i⟩

/-- `FUNCS(first, count, states)` over byte `i` (30_encoding.md R98). -/
def funcsField (i : Nat) (firstFn count : Word) (states : Word) : Field := ⟨0x11, firstFn, count, states, i, i⟩

/-- `CVADDR(cv, operation)` over byte `i` (30_encoding.md R98). -/
def cvAddrField (i : Nat) (cv operation : Word) : Field := ⟨0x20, cv, operation, 0, i, i⟩

/-- `CVDATA(d)` over byte `i`. -/
def cvDataField (i : Nat) (d : Byte) : Field := ⟨0x21, arg d, 0, 0, i, i⟩

/-- `BITOP(K, position, value)` of a data byte `111KDBBB`; bits 7:5 are not checked (44_cv_access.md R284). -/
def bitOpField (i : Nat) (d : Byte) : Field :=
  ⟨0x22, arg (d.extractLsb' 4 1), arg (d.extractLsb' 0 3), arg (d.extractLsb' 3 1), i, i⟩

/-- CV operation codes (30_encoding.md R104). -/
def opVerify : Word := 1
def opBit : Word := 2
def opWrite : Word := 3

/-! ### Operand assembly -/

/-- `((hi << 8) | v) + 1`: the CV number of POM and of service-mode direct packets (44_cv_access.md R281,
R299). -/
def cvNumber10 (hi : BitVec 2) (v : Byte) : Word := arg (hi ++ v) + 1

/-- `((v2 << 16) | (v1 << 8) | v0) + 1`: the XPOM CV number (44_cv_access.md R286). -/
def cvNumber24 (v2 v1 v0 : Byte) : Word := arg (v2 ++ v1 ++ v0) + 1

/-- The 9-bit accessory decoder address `(hi3 << 6) | lo6`, `hi3` the complement of the bits sent
(42_dispatch.md R193, R194). -/
def accDecoder (lo : BitVec 6) (hi : BitVec 3) : BitVec 9 := ~~~hi ++ lo

/-- The 11-bit address `(hi3 << 8) | (lo6 << 2) | port` (42_dispatch.md R194, R196). -/
def accRaw (lo : BitVec 6) (hi : BitVec 3) (port : BitVec 2) : BitVec 11 := ~~~hi ++ lo ++ port

/-- The user accessory address: the raw address - 3 + ACC_OFFSET in 32-bit two's complement (42_dispatch.md
R201). -/
def accUser (raw : BitVec 11) (offset : BitVec 16) : Word := arg raw - 3 + offset.signExtend 32

end Sys2Proof.Machine
end

