-- ==== Sys2Proof/Machine/Accessory.lean ====
section
/-! DEFINITION. Accessory packets, the idle packet and system commands (42_dispatch.md R191 to R201). Each is a
whole packet: the instruction begins at byte 0. -/

namespace Sys2Proof.Machine

/-- `ACC_EXT_ADDR(raw, user)` (R196, R201). -/
def accExtAddrField (lo : BitVec 6) (hi : BitVec 3) (port : BitVec 2) (offset : BitVec 16) : Field :=
  ⟨0x34, arg (accRaw lo hi port), accUser (accRaw lo hi port) offset, 0, 0, 1⟩

/-- ACC_BASIC (R194). -/
def execAccBasic (lo : BitVec 6) (hi : BitVec 3) (d : BitVec 1) (port : BitVec 2) (r : BitVec 1) (ops : List Byte)
    (s : State) : Out :=
  .next (s.emitFields (
    ⟨0x30, arg (accDecoder lo hi), arg port, accUser (accRaw lo hi port) s.accOffset, 0, 1⟩ ::
    instrField 1 0x38 :: ⟨0x31, arg d, arg r, 0, 1, 1⟩ :: unclaimed 2 ops))

/-- ACC_EXT: one aspect byte (R197). -/
def execAccExt (lo : BitVec 6) (hi : BitVec 3) (port : BitVec 2) (ops : List Byte) (s : State) : Out :=
  .next (s.emitFields (accExtAddrField lo hi port s.accOffset :: instrField 1 0x39 :: take 2 ops fun d rest =>
    ⟨0x35, arg d, 0, 0, 2, 2⟩ :: unclaimed 3 rest))

/-- ACC_NOP (R199). -/
def execAccNop (lo : BitVec 6) (hi : BitVec 3) (port : BitVec 2) (t : BitVec 1) (ops : List Byte) (s : State) : Out :=
  .next (s.emitFields (accExtAddrField lo hi port s.accOffset :: instrField 1 0x3A ::
    ⟨0x36, arg t, 0, 0, 1, 1⟩ :: unclaimed 2 ops))

/-- IDLE (R191). -/
def execIdle (ops : List Byte) (s : State) : Out :=
  .next (s.emitFields (addrField .idleSystem 255 0 0 :: instrField 1 0x3C :: unclaimed 2 ops))

/-- SYSCMD: the command byte and each further byte raw, none unclaimed (R192). -/
def execSysCmd (n : Byte) (ops : List Byte) (s : State) : Out :=
  .next (s.emitFields (addrField .idleSystem 255 0 0 :: instrField 1 0x3D :: ⟨0x38, arg n, 0, 0, 1, 1⟩ ::
    perByte (fun k d => ⟨0x39, arg d, 0, 0, k, k⟩) 2 ops))

end Sys2Proof.Machine
end

