-- ==== Sys2Proof/Machine/Control.lean ====
section
/-! DEFINITION. Class 000, decoder and consist control (43_multifunction.md R221 to R229). `i` is the index of
the opcode byte; every recognised instruction ends with `unclaimed()`. -/

namespace Sys2Proof.Machine

/-- An instruction without operands: INSTR, then what is left (R221, R222). -/
def plainFields (i : Nat) (id : Word) (ops : List Byte) : List Field :=
  instrField i id :: unclaimed (i + 1) ops

/-- An instruction without operands that reports its F bit (R223, R225, R226). -/
def flagFields (i : Nat) (id : Word) (f : BitVec 1) (ops : List Byte) : List Field :=
  instrField i id :: flagField i f :: unclaimed (i + 1) ops

/-- Consist control: one operand `xAAAAAAA`, its bit 7 ignored (R228, R229). -/
def consistFields (i : Nat) (id direction : Word) (ops : List Byte) : List Field :=
  instrField i id :: take (i + 1) ops fun d rest =>
    ⟨0x15, arg (d.extractLsb' 0 7), direction, 0, i + 1, i + 1⟩ :: unclaimed (i + 2) rest

/-- RESET (R221). -/
def execReset (ops : List Byte) (s : State) : Out :=
  .next (s.emitFields (plainFields s.cur.pos 0x01 ops))

/-- HARD_RESET (R222). -/
def execHardReset (ops : List Byte) (s : State) : Out :=
  .next (s.emitFields (plainFields s.cur.pos 0x02 ops))

/-- FACTORY_TEST (R223). -/
def execFactoryTest (f : BitVec 1) (ops : List Byte) (s : State) : Out :=
  .next (s.emitFields (flagFields s.cur.pos 0x03 f ops))

/-- SET_DECODER_FLAGS: FLAG, then the operand byte raw (R224). -/
def execSetDecoderFlags (f : BitVec 1) (ops : List Byte) (s : State) : Out :=
  let i := s.cur.pos
  .next (s.emitFields (instrField i 0x04 :: flagField i f :: take (i + 1) ops fun d rest =>
    ⟨0x14, arg d, 0, 0, i + 1, i + 1⟩ :: unclaimed (i + 2) rest))

/-- SET_ADV_ADDR (R225). -/
def execSetAdvAddr (f : BitVec 1) (ops : List Byte) (s : State) : Out :=
  .next (s.emitFields (flagFields s.cur.pos 0x05 f ops))

/-- ACK_REQUEST (R226). -/
def execAckRequest (f : BitVec 1) (ops : List Byte) (s : State) : Out :=
  .next (s.emitFields (flagFields s.cur.pos 0x06 f ops))

/-- CONSIST_NORMAL (R228). -/
def execConsistNormal (ops : List Byte) (s : State) : Out :=
  .next (s.emitFields (consistFields s.cur.pos 0x07 0 ops))

/-- CONSIST_REVERSE (R229). -/
def execConsistReverse (ops : List Byte) (s : State) : Out :=
  .next (s.emitFields (consistFields s.cur.pos 0x08 1 ops))

end Sys2Proof.Machine
end

