-- ==== Sys2Proof/Machine/CvAccess.lean ====
section
/-! DEFINITION. Class 111, configuration-variable access in operations mode: POM, XPOM and the short forms
(44_cv_access.md R280 to R296). -/

namespace Sys2Proof.Machine

/-- The POM layout `1110CCVV VVVVVVVV DDDDDDDD` (R281 to R283): CVADDR, then the field of the data byte. -/
def pomFields (i : Nat) (id operation : Word) (data : Nat → Byte → Field) (hi : BitVec 2) (ops : List Byte) :
    List Field :=
  instrField i id :: take (i + 1) ops fun v rest =>
    cvAddrField (i + 1) (cvNumber10 hi v) operation :: take (i + 2) rest fun d rest =>
      data (i + 2) d :: unclaimed (i + 3) rest

/-- POM_VERIFY (R281). -/
def execPomVerify (v : BitVec 2) (ops : List Byte) (s : State) : Out :=
  .next (s.emitFields (pomFields s.cur.pos 0x20 opVerify cvDataField v ops))

/-- POM_BIT (R282). -/
def execPomBit (v : BitVec 2) (ops : List Byte) (s : State) : Out :=
  .next (s.emitFields (pomFields s.cur.pos 0x21 opBit bitOpField v ops))

/-- POM_WRITE (R283). -/
def execPomWrite (v : BitVec 2) (ops : List Byte) (s : State) : Out :=
  .next (s.emitFields (pomFields s.cur.pos 0x22 opWrite cvDataField v ops))

/-- The XPOM common part `1110KKSS V2 V1 V0` (R286). -/
def xpomFields (i : Nat) (id operation : Word) (ss : BitVec 2) (ops : List Byte) (go : List Byte → List Field) :
    List Field :=
  instrField i id :: take (i + 1) ops fun v2 rest => take (i + 2) rest fun v1 rest => take (i + 3) rest fun v0 rest =>
    ⟨0x23, operation, arg ss, cvNumber24 v2 v1 v0, i + 1, i + 3⟩ :: go rest

/-- XPOM_READ: no data byte (R287). -/
def execXpomRead (ss : BitVec 2) (ops : List Byte) (s : State) : Out :=
  let i := s.cur.pos
  .next (s.emitFields (xpomFields i 0x23 opVerify ss ops fun rest => unclaimed (i + 4) rest))

/-- XPOM_BIT: one bit-manipulation byte (R288). -/
def execXpomBit (ss : BitVec 2) (ops : List Byte) (s : State) : Out :=
  let i := s.cur.pos
  .next (s.emitFields (xpomFields i 0x24 opBit ss ops fun rest => take (i + 4) rest fun d rest =>
    bitOpField (i + 4) d :: unclaimed (i + 5) rest))

/-- Data bytes after the first: up to `count` more, the others unclaimed (R289). -/
def moreCvData (count pos : Nat) (ops : List Byte) : List Field :=
  match count, ops with
  | _, [] => []
  | 0, d :: rest => unclaimed pos (d :: rest)
  | count + 1, d :: rest => cvDataField pos d :: moreCvData count (pos + 1) rest

/-- XPOM_WRITE: one to four data bytes (R289). -/
def execXpomWrite (ss : BitVec 2) (ops : List Byte) (s : State) : Out :=
  let i := s.cur.pos
  .next (s.emitFields (xpomFields i 0x25 opWrite ss ops fun rest => take (i + 4) rest fun d rest =>
    cvDataField (i + 4) d :: moreCvData 3 (i + 5) rest))

/-- A short form that writes one fixed CV (R292). -/
def oneCvFields (i : Nat) (id cv : Word) (ops : List Byte) : List Field :=
  instrField i id :: cvAddrField i cv opWrite :: take (i + 1) ops fun d rest =>
    cvDataField (i + 1) d :: unclaimed (i + 2) rest

/-- A short form that writes two fixed CVs (R294). -/
def twoCvFields (i : Nat) (id cv1 cv2 : Word) (ops : List Byte) : List Field :=
  instrField i id :: cvAddrField i cv1 opWrite :: take (i + 1) ops fun d1 rest =>
    cvDataField (i + 1) d1 :: cvAddrField i cv2 opWrite :: take (i + 2) rest fun d2 rest =>
      cvDataField (i + 2) d2 :: unclaimed (i + 3) rest

/-- CV_ACCEL: CV 23 (R292). -/
def execCvAccel (ops : List Byte) (s : State) : Out :=
  .next (s.emitFields (oneCvFields s.cur.pos 0x26 23 ops))

/-- CV_DECEL: CV 24 (R293). -/
def execCvDecel (ops : List Byte) (s : State) : Out :=
  .next (s.emitFields (oneCvFields s.cur.pos 0x27 24 ops))

/-- CV_LONGADDR: CV 17 and CV 18 (R294). -/
def execCvLongaddr (ops : List Byte) (s : State) : Out :=
  .next (s.emitFields (twoCvFields s.cur.pos 0x28 17 18 ops))

/-- CV_INDEX: CV 31 and CV 32 (R295). -/
def execCvIndex (ops : List Byte) (s : State) : Out :=
  .next (s.emitFields (twoCvFields s.cur.pos 0x29 31 32 ops))

/-- DECODER_LOCK: operand `xAAAAAAA`, its bit 7 ignored (R296). -/
def execDecoderLock (ops : List Byte) (s : State) : Out :=
  let i := s.cur.pos
  .next (s.emitFields (instrField i 0x2A :: take (i + 1) ops fun d rest =>
    ⟨0x24, arg (d.extractLsb' 0 7), 0, 0, i + 1, i + 1⟩ :: unclaimed (i + 2) rest))

end Sys2Proof.Machine
end

