-- ==== Sys2Proof/Machine/Feature.lean ====
section
/-! DEFINITION. Class 110, feature expansion: binary states and the time commands (43_multifunction.md R240 to
R244, R252). -/

namespace Sys2Proof.Machine

/-- BINSTATE_LONG: `DLLLLLLL HHHHHHHH`, address `H << 7 | L` (R240). -/
def execBinstateLong (ops : List Byte) (s : State) : Out :=
  let i := s.cur.pos
  .next (s.emitFields (instrField i 0x11 :: take (i + 1) ops fun lo rest => take (i + 2) rest fun hi rest =>
    ⟨0x18, arg (hi ++ lo.extractLsb' 0 7), arg (lo.extractLsb' 7 1), 0, i + 1, i + 2⟩ :: unclaimed (i + 3) rest))

/-- BINSTATE_SHORT: `DLLLLLLL` (R252). -/
def execBinstateShort (ops : List Byte) (s : State) : Out :=
  let i := s.cur.pos
  .next (s.emitFields (instrField i 0x1A :: take (i + 1) ops fun d rest =>
    ⟨0x18, arg (d.extractLsb' 0 7), arg (d.extractLsb' 7 1), 0, i + 1, i + 1⟩ :: unclaimed (i + 2) rest))

/-- `NOT_BROADCAST(addr)` when a time command's address kind is not BROADCAST (R241). -/
def notBroadcast (i : Nat) (c : Cursor) : List Field :=
  if c.kind = .broadcast then [] else [⟨0x1F, arg c.addr, 0, 0, i, i⟩]

/-- The common part of the time commands (R241): INSTR, NOT_BROADCAST, then the second and third operand byte;
the first was read by the dispatch. `i` is the index of 0xC1, `i + 1` that of the first operand. -/
def timeFields (i : Nat) (id : Word) (c : Cursor) (ops : List Byte) (go : Byte → Byte → List Field) : List Field :=
  instrField i id :: notBroadcast i c ++ take (i + 2) ops fun b2 rest => take (i + 3) rest fun b3 rest =>
    go b2 b3 ++ unclaimed (i + 4) rest

/-- MODEL_TIME: `00MMMMMM WWWHHHHH U0FFFFFF` (R242). -/
def execModelTime (minute : BitVec 6) (ops : List Byte) (s : State) : Out :=
  let j := s.cur.pos + 1
  .next (s.emitFields (timeFields s.cur.pos 0x12 s.cur ops fun b2 b3 =>
    [⟨0x19, arg (b2.extractLsb' 0 5), arg minute, 0, j, j + 1⟩,
     ⟨0x1A, arg (b2.extractLsb' 5 3), 0, 0, j + 1, j + 1⟩,
     ⟨0x1B, arg (b3.extractLsb' 7 1), arg (b3.extractLsb' 0 6), 0, j + 2, j + 2⟩]))

/-- MODEL_DATE: `01xDDDDD MMMMYYYY YYYYYYYY` (R243). -/
def execModelDate (low : BitVec 6) (ops : List Byte) (s : State) : Out :=
  let j := s.cur.pos + 1
  .next (s.emitFields (timeFields s.cur.pos 0x13 s.cur ops fun b2 b3 =>
    [⟨0x1C, arg (low.extractLsb' 0 5), arg (b2.extractLsb' 4 4), 0, j, j + 1⟩,
     ⟨0x1D, arg (b2.extractLsb' 0 4 ++ b3), 0, 0, j + 1, j + 2⟩]))

/-- SYSTEM_TIME: `10xxxxxx HHHHHHHH LLLLLLLL`; the six low bits of the first byte are ignored (R244). -/
def execSystemTime (_low : BitVec 6) (ops : List Byte) (s : State) : Out :=
  let j := s.cur.pos + 1
  .next (s.emitFields (timeFields s.cur.pos 0x14 s.cur ops fun b2 b3 =>
    [⟨0x1E, arg (b2 ++ b3), 0, 0, j + 1, j + 2⟩]))

end Sys2Proof.Machine
end

