-- ==== Sys2Proof/Machine/Functions.lean ====
section
/-! DEFINITION. Function groups one and two, classes 100 and 101, and the function bytes F13 to F68 of class 110
(43_multifunction.md R236 to R239, R245 to R251). -/

namespace Sys2Proof.Machine

/-- FG1: F0 to F4, or in the 14-step convention F1 to F4 and the ignored bit 4 (R236, R237). -/
def execFg1 (f0 : BitVec 1) (f : BitVec 4) (ops : List Byte) (s : State) : Out :=
  let i := s.cur.pos
  .next (s.emitFields (instrField i 0x0E ::
    (if s.speed14 then [funcsField i 1 4 (arg f), ⟨0x12, 4, arg f0, 0, i, i⟩]
     else [funcsField i 0 5 (arg (f ++ f0))])
    ++ unclaimed (i + 1) ops))

/-- FG2_F5F8 (R238). -/
def execFg2F5F8 (f : BitVec 4) (ops : List Byte) (s : State) : Out :=
  let i := s.cur.pos
  .next (s.emitFields (instrField i 0x0F :: funcsField i 5 4 (arg f) :: unclaimed (i + 1) ops))

/-- FG2_F9F12 (R239). -/
def execFg2F9F12 (f : BitVec 4) (ops : List Byte) (s : State) : Out :=
  let i := s.cur.pos
  .next (s.emitFields (instrField i 0x10 :: funcsField i 9 4 (arg f) :: unclaimed (i + 1) ops))

/-- A byte of eight functions, bit k the state of function `firstFn + k` (R245). -/
def functionByteFields (i : Nat) (id firstFn : Word) (ops : List Byte) : List Field :=
  instrField i id :: take (i + 1) ops fun d rest =>
    funcsField (i + 1) firstFn 8 (arg d) :: unclaimed (i + 2) rest

/-- F13_F20 (R245). -/
def execF13F20 (ops : List Byte) (s : State) : Out :=
  .next (s.emitFields (functionByteFields s.cur.pos 0x1B 13 ops))

/-- F21_F28 (R246). -/
def execF21F28 (ops : List Byte) (s : State) : Out :=
  .next (s.emitFields (functionByteFields s.cur.pos 0x1C 21 ops))

/-- F29_F36 (R247). -/
def execF29F36 (ops : List Byte) (s : State) : Out :=
  .next (s.emitFields (functionByteFields s.cur.pos 0x15 29 ops))

/-- F37_F44 (R248). -/
def execF37F44 (ops : List Byte) (s : State) : Out :=
  .next (s.emitFields (functionByteFields s.cur.pos 0x16 37 ops))

/-- F45_F52 (R249). -/
def execF45F52 (ops : List Byte) (s : State) : Out :=
  .next (s.emitFields (functionByteFields s.cur.pos 0x17 45 ops))

/-- F53_F60 (R250). -/
def execF53F60 (ops : List Byte) (s : State) : Out :=
  .next (s.emitFields (functionByteFields s.cur.pos 0x18 53 ops))

/-- F61_F68 (R251). -/
def execF61F68 (ops : List Byte) (s : State) : Out :=
  .next (s.emitFields (functionByteFields s.cur.pos 0x19 61 ops))

end Sys2Proof.Machine
end

