-- ==== Sys2Proof/Machine/Service.lean ====
section
/-! DEFINITION. Service-mode packets (44_cv_access.md R298 to R304). The instruction begins at byte 0. -/

namespace Sys2Proof.Machine

/-- The direct layout `0111CCAA AAAAAAAA DDDDDDDD` (R299 to R301). -/
def directFields (id operation : Word) (data : Nat → Byte → Field) (a : BitVec 2) (ops : List Byte) : List Field :=
  instrField 0 id :: take 1 ops fun v rest =>
    cvAddrField 1 (cvNumber10 a v) operation :: take 2 rest fun d rest => data 2 d :: unclaimed 3 rest

/-- SM_DIRECT_VERIFY (R299). -/
def execSmDirectVerify (a : BitVec 2) (ops : List Byte) (s : State) : Out :=
  .next (s.emitFields (directFields 0x30 opVerify cvDataField a ops))

/-- SM_DIRECT_BIT (R300). -/
def execSmDirectBit (a : BitVec 2) (ops : List Byte) (s : State) : Out :=
  .next (s.emitFields (directFields 0x31 opBit bitOpField a ops))

/-- SM_DIRECT_WRITE (R301). -/
def execSmDirectWrite (a : BitVec 2) (ops : List Byte) (s : State) : Out :=
  .next (s.emitFields (directFields 0x32 opWrite cvDataField a ops))

/-- The register layout `0111CRRR DDDDDDDD`: register `RRR + 1` (R303, R304). -/
def registerFields (id operation : Word) (r : BitVec 3) (ops : List Byte) : List Field :=
  instrField 0 id :: take 1 ops fun d rest =>
    ⟨0x25, operation, arg r + 1, arg d, 1, 1⟩ :: unclaimed 2 rest

/-- SM_REG_VERIFY (R303). -/
def execSmRegVerify (r : BitVec 3) (ops : List Byte) (s : State) : Out :=
  .next (s.emitFields (registerFields 0x33 0 r ops))

/-- SM_REG_WRITE (R304). -/
def execSmRegWrite (r : BitVec 3) (ops : List Byte) (s : State) : Out :=
  .next (s.emitFields (registerFields 0x34 1 r ops))

end Sys2Proof.Machine
end

