-- ==== Sys2Proof/Machine/Flags.lean ====
section
/-! DEFINITION. The flags the block computes: the STATUS word (10_state.md R32), the checksum verdict
(41_framer.md R157, R158) and the speed kinds of the speed instructions (30_encoding.md R103). -/

namespace Sys2Proof.Machine

/-! ### STATUS (10_state.md R32) -/

def fsmCode : Fsm → BitVec 2
  | .wait => 0
  | .pre => 1
  | .data => 2

def phaseCode : Phase → BitVec 2
  | .start => 0
  | .mid => 1
  | .stop => 2

/-- The STATUS register: PEND 8, PHASE 7:6, FSM 5:4, POL 3, TS_ERR 2, CFG_ERR 1, RUNNING 0. -/
def statusWord (s : State) : Word :=
  0#23 ++ BitVec.ofBool s.dp.pendValid ++ phaseCode s.dp.phase ++ fsmCode s.dp.fsm ++ BitVec.ofBool s.dp.pol
    ++ BitVec.ofBool s.tsErr ++ BitVec.ofBool s.cfgErr ++ BitVec.ofBool s.running

/-! ### Checksum (41_framer.md R157, R158; 30_encoding.md R102) -/

def verdictOk : Word := 0
def verdictFail : Word := 1
def verdictMissing : Word := 2

/-- The XOR of all bytes but the last. -/
def computedXor : List Byte → Byte
  | [] => 0
  | [_] => 0
  | b :: rest => b ^^^ computedXor rest

/-- Verdict, computed XOR and received byte of a packet. -/
def checksum (bytes : List Byte) : Word × Byte × Byte :=
  match bytes with
  | [] => (verdictMissing, 0, 0)
  | [_] => (verdictMissing, 0, 0)
  | _ :: _ :: _ =>
    let computed := computedXor bytes
    let received := bytes.getLastD 0
    (if computed = received then verdictOk else verdictFail, computed, received)

/-! ### Speed kinds (30_encoding.md R103) -/

def speedStep : Word := 0
def speedStop : Word := 1
def speedStopI : Word := 2
def speedEstop : Word := 3
def speedEstopI : Word := 4

/-- Kind and step of a 128-step speed (43_multifunction.md R230). -/
def speed128Kind (s : BitVec 7) : Word × Word :=
  if s = 0 then (speedStop, 0)
  else if s = 1 then (speedEstop, 0)
  else (speedStep, arg s - 1)

/-- Kind and step of a 28-step speed code `SSSSC` (43_multifunction.md R234). -/
def speed28Kind (v : BitVec 5) : Word × Word :=
  if v = 0 then (speedStop, 0)
  else if v = 1 then (speedStopI, 0)
  else if v = 2 then (speedEstop, 0)
  else if v = 3 then (speedEstopI, 0)
  else (speedStep, arg v - 3)

/-- Kind and step of a 14-step speed (43_multifunction.md R235). -/
def speed14Kind (s : BitVec 4) : Word × Word :=
  if s = 0 then (speedStop, 0)
  else if s = 1 then (speedEstop, 0)
  else (speedStep, arg s - 1)

end Sys2Proof.Machine
end

