-- ==== Sys2Proof/Machine/Speed.lean ====
section
/-! DEFINITION. Class 001, advanced operations, and classes 010 and 011, speed and direction
(43_multifunction.md R230 to R235). -/

namespace Sys2Proof.Machine

/-- `SPEED(dir, kind, step)` over byte `i` (30_encoding.md R98). -/
def speedField (i : Nat) (dir : Word) (kindStep : Word × Word) : Field :=
  ⟨0x10, dir, kindStep.1, kindStep.2, i, i⟩

/-- SPEED128: operand `DSSSSSSS` (R230). -/
def execSpeed128 (ops : List Byte) (s : State) : Out :=
  let i := s.cur.pos
  .next (s.emitFields (instrField i 0x09 :: take (i + 1) ops fun d rest =>
    speedField (i + 1) (arg (d.extractLsb' 7 1)) (speed128Kind (d.extractLsb' 0 7)) :: unclaimed (i + 2) rest))

/-- RESTRICTED_SPEED: operand `ExxSSSSS`, bits 6:5 ignored (R231). -/
def execRestrictedSpeed (ops : List Byte) (s : State) : Out :=
  let i := s.cur.pos
  .next (s.emitFields (instrField i 0x0A :: take (i + 1) ops fun d rest =>
    ⟨0x16, arg (d.extractLsb' 7 1), arg (d.extractLsb' 0 5), 0, i + 1, i + 1⟩ :: unclaimed (i + 2) rest))

/-- ANALOG_FUNCTION: output selector, then data (R232). -/
def execAnalogFunction (ops : List Byte) (s : State) : Out :=
  let i := s.cur.pos
  .next (s.emitFields (instrField i 0x0B :: take (i + 1) ops fun v rest => take (i + 2) rest fun d rest =>
    ⟨0x17, arg v, arg d, 0, i + 1, i + 2⟩ :: unclaimed (i + 3) rest))

/-- The speed and direction instructions `01DCSSSS`: 28-step with C the low speed bit (R234), or 14-step with C
the state of F0 (R235). -/
def speedFields (i : Nat) (id dir : Word) (speed14 : Bool) (c : BitVec 1) (speed : BitVec 4) (ops : List Byte) :
    List Field :=
  instrField i id ::
    (if speed14 then [speedField i dir (speed14Kind speed), funcsField i 0 1 (arg c)]
     else [speedField i dir (speed28Kind (speed ++ c))])
    ++ unclaimed (i + 1) ops

/-- SPEED_REV (R234, R235). -/
def execSpeedRev (c : BitVec 1) (speed : BitVec 4) (ops : List Byte) (s : State) : Out :=
  .next (s.emitFields (speedFields s.cur.pos 0x0C 0 s.speed14 c speed ops))

/-- SPEED_FWD (R234, R235). -/
def execSpeedFwd (c : BitVec 1) (speed : BitVec 4) (ops : List Byte) (s : State) : Out :=
  .next (s.emitFields (speedFields s.cur.pos 0x0D 1 s.speed14 c speed ops))

end Sys2Proof.Machine
end

