-- ==== Sys2Proof/Machine/Dispatch.lean ====
section
/-! DEFINITION. The meaning of each instruction: one arm for each row of opcode_table.json. -/

namespace Sys2Proof.Machine

def exec (i : Instr) (s : State) : Host.Outcome State Fault Refusal :=
  match i with
  | .reset ops => Sys2Proof.Machine.execReset ops s
  | .hardReset ops => Sys2Proof.Machine.execHardReset ops s
  | .factoryTest f ops => Sys2Proof.Machine.execFactoryTest f ops s
  | .setDecoderFlags f ops => Sys2Proof.Machine.execSetDecoderFlags f ops s
  | .setAdvAddr f ops => Sys2Proof.Machine.execSetAdvAddr f ops s
  | .ackRequest f ops => Sys2Proof.Machine.execAckRequest f ops s
  | .consistNormal ops => Sys2Proof.Machine.execConsistNormal ops s
  | .consistReverse ops => Sys2Proof.Machine.execConsistReverse ops s
  | .speed128 ops => Sys2Proof.Machine.execSpeed128 ops s
  | .restrictedSpeed ops => Sys2Proof.Machine.execRestrictedSpeed ops s
  | .analogFunction ops => Sys2Proof.Machine.execAnalogFunction ops s
  | .speedRev c speed ops => Sys2Proof.Machine.execSpeedRev c speed ops s
  | .speedFwd c speed ops => Sys2Proof.Machine.execSpeedFwd c speed ops s
  | .fg1 f0 f ops => Sys2Proof.Machine.execFg1 f0 f ops s
  | .fg2F5F8 f ops => Sys2Proof.Machine.execFg2F5F8 f ops s
  | .fg2F9F12 f ops => Sys2Proof.Machine.execFg2F9F12 f ops s
  | .binstateLong ops => Sys2Proof.Machine.execBinstateLong ops s
  | .modelTime minute ops => Sys2Proof.Machine.execModelTime minute ops s
  | .modelDate low ops => Sys2Proof.Machine.execModelDate low ops s
  | .systemTime low ops => Sys2Proof.Machine.execSystemTime low ops s
  | .f29F36 ops => Sys2Proof.Machine.execF29F36 ops s
  | .f37F44 ops => Sys2Proof.Machine.execF37F44 ops s
  | .f45F52 ops => Sys2Proof.Machine.execF45F52 ops s
  | .f53F60 ops => Sys2Proof.Machine.execF53F60 ops s
  | .f61F68 ops => Sys2Proof.Machine.execF61F68 ops s
  | .binstateShort ops => Sys2Proof.Machine.execBinstateShort ops s
  | .f13F20 ops => Sys2Proof.Machine.execF13F20 ops s
  | .f21F28 ops => Sys2Proof.Machine.execF21F28 ops s
  | .pomVerify v ops => Sys2Proof.Machine.execPomVerify v ops s
  | .pomBit v ops => Sys2Proof.Machine.execPomBit v ops s
  | .pomWrite v ops => Sys2Proof.Machine.execPomWrite v ops s
  | .xpomRead ss ops => Sys2Proof.Machine.execXpomRead ss ops s
  | .xpomBit ss ops => Sys2Proof.Machine.execXpomBit ss ops s
  | .xpomWrite ss ops => Sys2Proof.Machine.execXpomWrite ss ops s
  | .cvAccel ops => Sys2Proof.Machine.execCvAccel ops s
  | .cvDecel ops => Sys2Proof.Machine.execCvDecel ops s
  | .cvLongaddr ops => Sys2Proof.Machine.execCvLongaddr ops s
  | .cvIndex ops => Sys2Proof.Machine.execCvIndex ops s
  | .decoderLock ops => Sys2Proof.Machine.execDecoderLock ops s
  | .smDirectVerify a ops => Sys2Proof.Machine.execSmDirectVerify a ops s
  | .smDirectBit a ops => Sys2Proof.Machine.execSmDirectBit a ops s
  | .smDirectWrite a ops => Sys2Proof.Machine.execSmDirectWrite a ops s
  | .smRegVerify r ops => Sys2Proof.Machine.execSmRegVerify r ops s
  | .smRegWrite r ops => Sys2Proof.Machine.execSmRegWrite r ops s
  | .accBasic lo hi d port r ops => Sys2Proof.Machine.execAccBasic lo hi d port r ops s
  | .accExt lo hi port ops => Sys2Proof.Machine.execAccExt lo hi port ops s
  | .accNop lo hi port t ops => Sys2Proof.Machine.execAccNop lo hi port t ops s
  | .idle ops => Sys2Proof.Machine.execIdle ops s
  | .sysCmd n ops => Sys2Proof.Machine.execSysCmd n ops s

end Sys2Proof.Machine
end

