-- ==== Sys2Proof/Machine/Framer.lean ====
section
/-! DEFINITION. The bit assembler and framer (41_framer.md R140 to R161) and the finalisation of a packet, where
its content is decoded and the instruction it holds is run. -/

namespace Sys2Proof.Machine

/-! ### Packet finalisation -/

/-- The content bytes: all but the last of 2 or more, or the single byte (42_dispatch.md R180). -/
def contentBytes (pkt : List PktByte) : List Byte :=
  (if 2 ≤ pkt.length then pkt.dropLast else pkt).map PktByte.val

/-- The cursor and address an instruction sees after a header (42_dispatch.md R186 to R198). -/
def headerCursor : Header → Cursor
  | .bare => ⟨0, .broadcast, 0⟩
  | .broadcast => ⟨1, .broadcast, 0⟩
  | .mf7 a => ⟨1, .mf7, a.setWidth 14⟩
  | .mf14 hi lo => ⟨2, .mf14, hi ++ lo⟩
  | .reserved _ => ⟨1, .reserved, 0⟩
  | .idleSystem => ⟨1, .idleSystem, 0⟩
  | .accPom _ _ _ _ => ⟨2, .broadcast, 0⟩
  | .accExtPom _ _ _ => ⟨2, .broadcast, 0⟩

/-- The fields a header emits before its instruction (42_dispatch.md R186, R187, R189, R190, R191, R195, R198). -/
def headerFields (h : Header) (accOffset : BitVec 16) : List Field :=
  match h with
  | .bare => []
  | .broadcast => [addrField .broadcast 0 0 0]
  | .mf7 a => [addrField .mf7 (arg a) 0 0]
  | .mf14 hi lo => [addrField .mf14 (arg (hi ++ lo)) 0 1]
  | .reserved a => [addrField .reserved (arg a) 0 0]
  | .idleSystem => [addrField .idleSystem 255 0 0]
  | .accPom lo hi c ddd => [⟨0x32, arg (accDecoder lo hi), 0, 0, 0, 1⟩, ⟨0x33, arg c, arg ddd, 0, 1, 1⟩]
  | .accExtPom lo hi port => [⟨0x34, arg (accRaw lo hi port), accUser (accRaw lo hi port) accOffset, 0, 0, 1⟩]

/-- The fields of a content the decoder rejects (42_dispatch.md R182, R184, R190). -/
def rejectFields (r : Reject) (content : List Byte) : List Field :=
  match r with
  | .unknown pos other => unknownFrom pos other (content.drop pos)
  | .missing pos => [missingField pos]
  | .reservedAddress => []

/-- Run what the decoder found after the header. -/
def runBody (b : Body) (content : List Byte) (s : State) : Out :=
  match b with
  | .instr i => exec i s
  | .reject r => .next (s.emitFields (rejectFields r content))

/-- The decoder engine on the packet in the buffer (42_dispatch.md R180 to R203): header fields, then the
instruction with the cursor at it, then the cursor is gone (10_state.md R39). -/
def decodeAndRun (s : State) : Out :=
  let content := contentBytes s.dp.pkt
  let p := decodePacket s.serviceMode content
  andThen (runBody p.body content ((s.emitFields (headerFields p.header s.accOffset)).withCur (headerCursor p.header)))
    fun s' => .next (s'.withCur Cursor.idle)

/-- The BYTE records of a packet, byte `i` first (41_framer.md R156). -/
def byteRecords (i : Nat) : List PktByte → List Record
  | [] => []
  | b :: rest => mkRecord kindByte b.start b.stop (arg b.val) (argNat i) 0 :: byteRecords (i + 1) rest

/-- The CHECKSUM record over the last byte (41_framer.md R159). -/
def checksumRecord (pkt : List PktByte) : Record :=
  let c := checksum (pkt.map PktByte.val)
  mkRecord kindChecksum (byteStartAt pkt (pkt.length - 1)) (byteEndAt pkt (pkt.length - 1)) c.1 (arg c.2.1) (arg c.2.2)

/-- `finalise(m1, m3)`: BYTE records, FIELD records, CHECKSUM, PACKET_END (41_framer.md R155, R160). -/
def finalise (m1 m3 : Ts) (s : State) : Out :=
  andThen (decodeAndRun (s.emit (byteRecords 0 s.dp.pkt))) fun s' =>
    .next (s'.emit [checksumRecord s.dp.pkt, mkRecord kindPacketEnd m1 m3 0 0 0])

/-! ### Bits -/

/-- The BIT record, which reports and clears `acc_short` (41_framer.md R145). -/
def emitBit (bit stretched : Bool) (t1 t3 : Ts) (s : State) : State :=
  (s.emit [mkRecord kindBit t1 t3 (if bit then 1 else 0) (if stretched then 1 else 0)
      (sat 32 s.dp.accShort.toNat)]).withDp { s.dp with accShort := 0 }

/-- The packet buffer with the byte just completed (41_framer.md R153, R154). -/
def pktWithByte (d : Datapath) : List PktByte := d.pkt ++ [⟨d.acc, d.byteStart, d.byteEnd⟩]

/-- A bit in state WAIT (41_framer.md R146, R147). -/
def bitInWait (bit : Bool) (t1 : Ts) (s : State) : State :=
  if bit then s.withDp { s.dp with fsm := .pre, preCnt := 1, preStart := t1 } else s

/-- A bit in state PRE (41_framer.md R148 to R150). -/
def bitInPre (bit : Bool) (t3 : Ts) (s : State) : State :=
  if bit then s.withDp { s.dp with preCnt := sat 16 (s.dp.preCnt.toNat + 1) }
  else if Config.preMin ≤ s.dp.preCnt.toNat then
    (s.emit [mkRecord kindPreamble s.dp.preStart t3 (arg s.dp.preCnt) 0 0]).withDp
      { s.dp with fsm := .data, bitcnt := 0, acc := 0, pkt := [] }
  else resync reasonShortPreamble (arg s.dp.preCnt) s.dp.preStart t3 s

/-- A data bit, most significant first (41_framer.md R151, 20_memory.md R65). -/
def dataBit (bit : Bool) (t1 t3 : Ts) (d : Datapath) : Datapath :=
  { d with
    byteStart := if d.bitcnt = 0 then t1 else d.byteStart
    acc := d.acc.extractLsb' 0 7 ++ BitVec.ofBool bit
    bitcnt := d.bitcnt + 1
    byteEnd := if d.bitcnt + 1 = 8 then t3 else d.byteEnd }

/-- The marker bit after 8 data bits (41_framer.md R152 to R154): TOO_LONG over a full buffer whatever its value
(60_exceptions.md R326), another byte, or the end of the packet. -/
def markerBit (bit : Bool) (t1 t3 : Ts) (s : State) : Out :=
  if Config.maxPkt ≤ s.dp.pkt.length then
    .next (resync reasonTooLong (argNat Config.maxPkt) (byteStartAt s.dp.pkt 0) t3 s)
  else if bit then
    andThen (finalise t1 t3 (s.withDp { s.dp with pkt := pktWithByte s.dp })) fun s' =>
      .next (s'.withDp { s'.dp with fsm := .wait, pkt := [] })
  else .next (s.withDp { s.dp with pkt := pktWithByte s.dp, bitcnt := 0, acc := 0 })

/-- A bit in state DATA (41_framer.md R151 to R154). -/
def bitInData (bit : Bool) (t1 t3 : Ts) (s : State) : Out :=
  if s.dp.bitcnt < 8 then .next (s.withDp (dataBit bit t1 t3 s.dp)) else markerBit bit t1 t3 s

/-- The transition for `(st.fsm, bit)` (41_framer.md R140). -/
def frameBit (bit : Bool) (t1 t3 : Ts) (s : State) : Out :=
  match s.dp.fsm with
  | .wait => .next (bitInWait bit t1 s)
  | .pre => .next (bitInPre bit t3 s)
  | .data => bitInData bit t1 t3 s

/-- `framer(class, stretched, t1, t3)` (41_framer.md R140, R142 to R144). -/
def framer (c : WindowClass) (stretched : Bool) (t1 t3 : Ts) (s : State) : Out :=
  match c with
  | .one => frameBit true t1 t3 (emitBit true stretched t1 t3 s)
  | .zero => frameBit false t1 t3 (emitBit false stretched t1 t3 s)
  | .straddle => .next (resync reasonPolarity 0 t1 t3 s)
  | .railcom => .next (s.emit [mkRecord kindRailcom t1 t3 0 0 0])
  | .unknown => .next (resync reasonTiming 0 t1 t3 s)

end Sys2Proof.Machine
end

