-- ==== Sys2Proof/Machine/Ports.lean ====
section
/-! DEFINITION. The three ports: an accepted edge through the filter and the window (40_classifier.md R110 to
R117), the register space (10_state.md R23 to R32, 20_memory.md R60 to R64), and the acceptance of a record
(10_state.md R22); and which interaction of the host is taken next (log entries 1 and 2). -/

namespace Sys2Proof.Machine

/-! ### Edge port -/

/-- `deliver(ts, level)`: the three-edge window (40_classifier.md R115 to R117). -/
def deliver (ts : Ts) (level : Bool) (s : State) : Out :=
  match s.dp.phase with
  | .start => .next (if level = s.dp.pol then s.withDp { s.dp with t1 := ts, phase := .mid } else s)
  | .mid => .next (s.withDp { s.dp with t2 := ts, phase := .stop })
  | .stop =>
    let c := classify s s.dp.t1 s.dp.t2 ts
    framer c.1 c.2 s.dp.t1 ts (s.withDp (advanceWindow c.1 ts level s.dp))

/-- A pulse of `d` samples is short: `us(d) ≤ SHORT_THR_NS / 1000` (40_classifier.md R113). -/
def isShort (s : State) (d : Nat) : Bool := decide (d * 1000000000 ≤ s.shortThrNs.toNat * s.samplerate.toNat)

/-- `filter(ts, level)`: the short-pulse filter (40_classifier.md R112, R113). -/
def filterEdge (ts : Ts) (level : Bool) (s : State) : Out :=
  if s.dp.pendValid then
    let d := ts.toNat - s.dp.pendTs.toNat
    if isShort s d then
      .next (s.withDp { s.dp with accShort := sat 64 (s.dp.accShort.toNat + d), pendValid := false })
    else deliver s.dp.pendTs s.dp.pendLevel (s.withDp { s.dp with pendTs := ts, pendLevel := level })
  else .next (s.withDp { s.dp with pendValid := true, pendTs := ts, pendLevel := level })

/-- An accepted edge: discarded while stopped (10_state.md R21), dropped with TS_ERR when its timestamp does not
increase, else filtered or delivered (40_classifier.md R110, R111). -/
def acceptEdge (ts : Ts) (level : Bool) (s : State) : Out :=
  if !s.running then .next s
  else if s.dp.lastValid && decide (ts ≤ s.dp.lastTs) then .next { s with tsErr := true }
  else
    let s' := s.withDp { s.dp with lastValid := true, lastTs := ts }
    if s'.ignoreShort then filterEdge ts level s' else deliver ts level s'

/-! ### Register port -/

/-- `MemRead(offset, 4)`: 0 at a misaligned or reserved offset and at CTRL (20_memory.md R61, R62, 10_state.md
R23 to R32). -/
def readReg (offset : Nat) (s : State) : Word :=
  if offset % 4 ≠ 0 then 0
  else if offset = 0x04 then statusWord s
  else if offset = 0x08 then s.samplerate
  else if offset = 0x0C then s.tolPm.setWidth 32
  else if offset = 0x10 then s.shortThrNs
  else if offset = 0x14 then s.mode.setWidth 32
  else if offset = 0x18 then s.accOffset.setWidth 32
  else 0

/-- A write to CTRL (10_state.md R31). -/
def writeCtrl (v : Word) (s : State) : State :=
  if v.getLsbD 1 then softReset s
  else if v.getLsbD 0 && !s.running then start s
  else s

/-- A write to a configuration register, while stopped (10_state.md R24 to R30). -/
def writeConfig (offset : Nat) (v : Word) (s : State) : State :=
  if s.running then s
  else if offset = 0x08 then { s with samplerate := v }
  else if offset = 0x0C then { s with tolPm := v.extractLsb' 0 10 }
  else if offset = 0x10 then { s with shortThrNs := v }
  else if offset = 0x14 then { s with mode := v.extractLsb' 0 3 }
  else if offset = 0x18 then { s with accOffset := v.extractLsb' 0 16 }
  else s

/-- `MemWrite(offset, 4, v)`: no effect at a misaligned offset, at STATUS and at reserved offsets (20_memory.md
R61, R62). -/
def writeReg (offset : Nat) (v : Word) (s : State) : State :=
  if offset % 4 ≠ 0 then s
  else if offset = 0x00 then writeCtrl v s
  else writeConfig offset v s

/-- The register space is 256 bytes (20_memory.md R60). -/
def spaceSize : Nat := 256

/-! ### Host interactions -/

/-- The host accepts the oldest record; with none pending there is nothing to accept (10_state.md R22, log entry
2). -/
def acceptRecord (s : State) : State :=
  match s.outq with
  | [] => s
  | r :: rest => { s with outq := rest, host := { s.host with taken := s.host.taken ++ [r] } }

/-- One interaction of the host (60_exceptions.md R339). -/
def perform (a : HostAct) (s : State) : Out :=
  match a with
  | .edge ts level => acceptEdge ts level s
  | .accept => .next (acceptRecord s)
  | .memRead offset =>
    if offset < spaceSize then
      .next { s with host := { s.host with reads := s.host.reads ++ [readReg offset s] } }
    else .fault (.outsideRegisterSpace offset)
  | .memWrite offset v =>
    if offset < spaceSize then .next (writeReg offset v s) else .fault (.outsideRegisterSpace offset)
  | .hardReset => .next (hardReset s)

/-- The next interaction the ports can take, and the others in order. An edge is accepted only when no record is
pending (10_state.md R21); while one is, edges wait in their order and the other ports go on (92_eei_decisions.md
D56, log entry 1). -/
def nextAct (edgeReady : Bool) : List HostAct → Option (HostAct × List HostAct)
  | [] => none
  | .edge ts level :: rest =>
    if edgeReady then some (.edge ts level, rest)
    else (nextAct edgeReady rest).map fun p => (p.1, .edge ts level :: p.2)
  | a :: rest => some (a, rest)

/-- Take the next interaction, or wait. -/
def takeTurn (s : State) : Out :=
  match nextAct s.outq.isEmpty s.host.script with
  | none => .next s
  | some (a, rest) => perform a (s.withScript rest)

/-! ### Placing an instruction where it is run next (log entry 4) -/

/-- Content bytes with sample ranges, 1800 samples apart. -/
def rangedBytes (start : Nat) : List Byte → List PktByte
  | [] => []
  | b :: rest => ⟨b, BitVec.ofNat 64 start, BitVec.ofNat 64 (start + 1600)⟩ :: rangedBytes (start + 1800) rest

/-- The state in which the next accepted edge is the closing edge of the packet end bit of a packet with this
content: a running block at 1 MHz with the filter off, the content in the packet buffer, the checksum byte
complete, the marker bit's window waiting for its third edge, and that edge next at the edge port. -/
def placePacket (serviceMode : Bool) (content : List Byte) (s : State) : State :=
  let t := 1000 + 1800 * content.length
  { s with
    running := true
    samplerate := 1000000
    mode := 0#1 ++ (s.mode.extractLsb' 1 1 ++ BitVec.ofBool serviceMode)
    outq := []
    dp := { s.dp with
      lastValid := false
      phase := .stop
      t1 := BitVec.ofNat 64 (t + 1600)
      t2 := BitVec.ofNat 64 (t + 1658)
      fsm := .data
      bitcnt := 8
      acc := xorBytes content
      byteStart := BitVec.ofNat 64 t
      byteEnd := BitVec.ofNat 64 (t + 1600)
      pkt := rangedBytes 1000 content }
    host := { s.host with script := .edge (BitVec.ofNat 64 (t + 1716)) true :: s.host.script } }

end Sys2Proof.Machine
end

