-- ==== Sys2Proof/Machine/Step.lean ====
section
/-! DEFINITION. One step of the machine, and the placing of an opcode-table word where the next step runs it. -/

namespace Sys2Proof.Machine

/-- One atomic step: the next interaction of the host that the ports can take (00_scope.md R9, 20_memory.md R68).
The step that accepts a packet's closing edge decodes the packet and runs its instruction (41_framer.md R154). -/
def step (s : State) : Host.Outcome State Fault Refusal := takeTurn s

/-- `s` with the packet that stands for an opcode-table word about to be finalised by the very next step (log
entries 4 and 5). -/
def State.withFetchWord (s : State) (nbits w : Nat) : State :=
  placePacket (tableContent nbits w).1 (tableContent nbits w).2 s

end Sys2Proof.Machine
end

