-- ==== Sys2Proof/Safety.lean ====
section
/-! DEFINITION. What the claims speak of: the FIELD records a rule names, the classes as the rules state them over
rational microseconds, a packet on the line, the records the format admits, and the invariants of a run. Nothing
here is part of the machine. -/

namespace Sys2Proof.Machine

/-! ### Records as the rules write them -/

/-- `CODE(a1, a2, a3) [i, j]` over the packet in the buffer of `s` (42_dispatch.md R181). -/
def specField (s : State) (i j code a1 a2 a3 : Nat) : Record :=
  { kind := 6
    start := (s.dp.pkt.getD i ⟨0, 0, 0⟩).start
    stop := (s.dp.pkt.getD j ⟨0, 0, 0⟩).stop
    a0 := BitVec.ofNat 32 code
    a1 := BitVec.ofNat 32 a1
    a2 := BitVec.ofNat 32 a2
    a3 := BitVec.ofNat 32 a3 }

/-- `UNCLAIMED(c[k]) [k, k]` for each of `bytes`, the first of them content byte `k` (42_dispatch.md R183). -/
def specUnclaimed (s : State) (k : Nat) (bytes : List Byte) : List Record :=
  bytes.mapIdx fun m b => specField s (k + m) (k + m) 0x04 b.toNat 0 0

/-- `UNKNOWN(c[k], other) [k, k]` for each of `bytes`, the first of them content byte `k` (42_dispatch.md R184). -/
def specUnknown (s : State) (k other : Nat) (bytes : List Byte) : List Record :=
  bytes.mapIdx fun m b => specField s (k + m) (k + m) 0x05 b.toNat other 0

/-- `BYTE_MISSING(k)` over the last content byte, `k - 1` (42_dispatch.md R182). -/
def specMissing (s : State) (k : Nat) : Record := specField s (k - 1) (k - 1) 0x03 k 0 0

/-- The instruction id of each row (30_encoding.md R100). -/
def instrId : Instr → Nat
  | .reset _ => 0x01
  | .hardReset _ => 0x02
  | .factoryTest _ _ => 0x03
  | .setDecoderFlags _ _ => 0x04
  | .setAdvAddr _ _ => 0x05
  | .ackRequest _ _ => 0x06
  | .consistNormal _ => 0x07
  | .consistReverse _ => 0x08
  | .speed128 _ => 0x09
  | .restrictedSpeed _ => 0x0A
  | .analogFunction _ => 0x0B
  | .speedRev _ _ _ => 0x0C
  | .speedFwd _ _ _ => 0x0D
  | .fg1 _ _ _ => 0x0E
  | .fg2F5F8 _ _ => 0x0F
  | .fg2F9F12 _ _ => 0x10
  | .binstateLong _ => 0x11
  | .modelTime _ _ => 0x12
  | .modelDate _ _ => 0x13
  | .systemTime _ _ => 0x14
  | .f29F36 _ => 0x15
  | .f37F44 _ => 0x16
  | .f45F52 _ => 0x17
  | .f53F60 _ => 0x18
  | .f61F68 _ => 0x19
  | .binstateShort _ => 0x1A
  | .f13F20 _ => 0x1B
  | .f21F28 _ => 0x1C
  | .pomVerify _ _ => 0x20
  | .pomBit _ _ => 0x21
  | .pomWrite _ _ => 0x22
  | .xpomRead _ _ => 0x23
  | .xpomBit _ _ => 0x24
  | .xpomWrite _ _ => 0x25
  | .cvAccel _ => 0x26
  | .cvDecel _ => 0x27
  | .cvLongaddr _ => 0x28
  | .cvIndex _ => 0x29
  | .decoderLock _ => 0x2A
  | .smDirectVerify _ _ => 0x30
  | .smDirectBit _ _ => 0x31
  | .smDirectWrite _ _ => 0x32
  | .smRegVerify _ _ => 0x33
  | .smRegWrite _ _ => 0x34
  | .accBasic _ _ _ _ _ _ => 0x38
  | .accExt _ _ _ _ => 0x39
  | .accNop _ _ _ _ _ => 0x3A
  | .idle _ => 0x3C
  | .sysCmd _ _ => 0x3D

/-- A signed user address of 42_dispatch.md R201 as its 32-bit pattern: -3 to 2044, and the 16-bit signed offset. -/
def userAddress (v : Nat) : Prop := v ≤ 34811 ∨ (2 ^ 32 - 32771 ≤ v ∧ v < 2 ^ 32)

/-- The arguments a FIELD code can carry (30_encoding.md R98, with R99, R100, R103, R104 and the field widths of the
rules R98 names); an argument no rule names is 0 (R96). -/
def fieldLegal (code a1 a2 a3 : Nat) : Prop :=
  match code with
  | 0x01 => a3 = 0 ∧ ((a1 = 0 ∧ a2 = 0) ∨ (a1 = 1 ∧ 1 ≤ a2 ∧ a2 ≤ 127) ∨ (a1 = 2 ∧ a2 ≤ 10239) ∨
      (a1 = 3 ∧ 232 ≤ a2 ∧ a2 ≤ 254) ∨ (a1 = 4 ∧ a2 = 255))
  | 0x02 => ((1 ≤ a1 ∧ a1 ≤ 0x1C) ∨ (0x20 ≤ a1 ∧ a1 ≤ 0x2A) ∨ (0x30 ≤ a1 ∧ a1 ≤ 0x34) ∨ (0x38 ≤ a1 ∧ a1 ≤ 0x3A) ∨
      a1 = 0x3C ∨ a1 = 0x3D) ∧ a2 = 0 ∧ a3 = 0
  | 0x03 => 1 ≤ a1 ∧ a1 ≤ 15 ∧ a2 = 0 ∧ a3 = 0
  | 0x04 => a1 ≤ 255 ∧ a2 = 0 ∧ a3 = 0
  | 0x05 => a1 ≤ 255 ∧ a2 ≤ 1 ∧ a3 = 0
  | 0x10 => a1 ≤ 1 ∧ ((a2 = 0 ∧ 1 ≤ a3 ∧ a3 ≤ 126) ∨ (1 ≤ a2 ∧ a2 ≤ 4 ∧ a3 = 0))
  | 0x11 => (a1, a2) ∈ [(0, 1), (0, 5), (1, 4), (5, 4), (9, 4), (13, 8), (21, 8), (29, 8), (37, 8), (45, 8), (53, 8),
      (61, 8)] ∧ a3 < 2 ^ a2
  | 0x12 => a1 = 4 ∧ a2 ≤ 1 ∧ a3 = 0
  | 0x13 => a1 ≤ 1 ∧ a2 = 0 ∧ a3 = 0
  | 0x14 => a1 ≤ 255 ∧ a2 = 0 ∧ a3 = 0
  | 0x15 => a1 ≤ 127 ∧ a2 ≤ 1 ∧ a3 = 0
  | 0x16 => a1 ≤ 1 ∧ a2 ≤ 31 ∧ a3 = 0
  | 0x17 => a1 ≤ 255 ∧ a2 ≤ 255 ∧ a3 = 0
  | 0x18 => a1 ≤ 32767 ∧ a2 ≤ 1 ∧ a3 = 0
  | 0x19 => a1 ≤ 31 ∧ a2 ≤ 63 ∧ a3 = 0
  | 0x1A => a1 ≤ 7 ∧ a2 = 0 ∧ a3 = 0
  | 0x1B => a1 ≤ 1 ∧ a2 ≤ 63 ∧ a3 = 0
  | 0x1C => a1 ≤ 31 ∧ a2 ≤ 15 ∧ a3 = 0
  | 0x1D => a1 ≤ 4095 ∧ a2 = 0 ∧ a3 = 0
  | 0x1E => a1 ≤ 65535 ∧ a2 = 0 ∧ a3 = 0
  | 0x1F => a1 ≤ 10239 ∧ a2 = 0 ∧ a3 = 0
  | 0x20 => 1 ≤ a1 ∧ a1 ≤ 1024 ∧ 1 ≤ a2 ∧ a2 ≤ 3 ∧ a3 = 0
  | 0x21 => a1 ≤ 255 ∧ a2 = 0 ∧ a3 = 0
  | 0x22 => a1 ≤ 1 ∧ a2 ≤ 7 ∧ a3 ≤ 1
  | 0x23 => 1 ≤ a1 ∧ a1 ≤ 3 ∧ a2 ≤ 3 ∧ 1 ≤ a3 ∧ a3 ≤ 2 ^ 24
  | 0x24 => a1 ≤ 127 ∧ a2 = 0 ∧ a3 = 0
  | 0x25 => a1 ≤ 1 ∧ 1 ≤ a2 ∧ a2 ≤ 8 ∧ a3 ≤ 255
  | 0x30 => a1 ≤ 511 ∧ a2 ≤ 3 ∧ userAddress a3
  | 0x31 => a1 ≤ 1 ∧ a2 ≤ 1 ∧ a3 = 0
  | 0x32 => a1 ≤ 511 ∧ a2 = 0 ∧ a3 = 0
  | 0x33 => a1 ≤ 1 ∧ a2 ≤ 7 ∧ a3 = 0
  | 0x34 => a1 ≤ 2047 ∧ userAddress a2 ∧ a3 = 0
  | 0x35 => a1 ≤ 255 ∧ a2 = 0 ∧ a3 = 0
  | 0x36 => a1 ≤ 1 ∧ a2 = 0 ∧ a3 = 0
  | 0x38 => a1 ≤ 255 ∧ a2 = 0 ∧ a3 = 0
  | 0x39 => a1 ≤ 255 ∧ a2 = 0 ∧ a3 = 0
  | _ => False

/-- A record the format admits: a kind of 30_encoding.md R97 with arguments it can carry (R97, R101, R102), a FIELD as
R98 has it. -/
def Record.legal (r : Record) : Prop :=
  match r.kind.toNat with
  | 1 => r.a0.toNat ≤ 1 ∧ r.a1.toNat ≤ 1 ∧ (r.a0 = 1 → r.a1 = 0) ∧ r.a3 = 0
  | 2 => r.a0 = 0 ∧ r.a1 = 0 ∧ r.a2 = 0 ∧ r.a3 = 0
  | 3 => (((r.a0 = 1 ∨ r.a0 = 2) ∧ r.a1 = 0) ∨ (r.a0 = 3 ∧ 1 ≤ r.a1.toNat ∧ r.a1.toNat ≤ 9) ∨ (r.a0 = 4 ∧ r.a1 = 16)) ∧
      r.a2 = 0 ∧ r.a3 = 0
  | 4 => 10 ≤ r.a0.toNat ∧ r.a0.toNat ≤ 65535 ∧ r.a1 = 0 ∧ r.a2 = 0 ∧ r.a3 = 0
  | 5 => r.a0.toNat ≤ 255 ∧ r.a1.toNat ≤ 15 ∧ r.a2 = 0 ∧ r.a3 = 0
  | 6 => fieldLegal r.a0.toNat r.a1.toNat r.a2.toNat r.a3.toNat
  | 7 => r.a1.toNat ≤ 255 ∧ r.a2.toNat ≤ 255 ∧ r.a3 = 0 ∧
      ((r.a0 = 0 ∧ r.a1 = r.a2) ∨ (r.a0 = 1 ∧ r.a1 ≠ r.a2) ∨ (r.a0 = 2 ∧ r.a1 = 0 ∧ r.a2 = 0))
  | 8 => r.a0 = 0 ∧ r.a1 = 0 ∧ r.a2 = 0 ∧ r.a3 = 0
  | _ => False

/-- The records a header is reported by, before its instruction (42_dispatch.md R186, R187, R189 to R191, R195,
R198, R201). -/
def specHeader (s : State) : Header → List Record
  | .bare => []
  | .broadcast => [specField s 0 0 0x01 0 0 0]
  | .mf7 a => [specField s 0 0 0x01 1 a.toNat 0]
  | .mf14 hi lo => [specField s 0 1 0x01 2 (hi.toNat * 256 + lo.toNat) 0]
  | .reserved a => [specField s 0 0 0x01 3 a.toNat 0]
  | .idleSystem => [specField s 0 0 0x01 4 255 0]
  | .accPom lo hi c ddd =>
    [specField s 0 1 0x32 ((7 - hi.toNat) * 64 + lo.toNat) 0 0, specField s 1 1 0x33 c.toNat ddd.toNat 0]
  | .accExtPom lo hi port =>
    let raw := (7 - hi.toNat) * 256 + lo.toNat * 4 + port.toNat
    [specField s 0 1 0x34 raw (BitVec.ofInt 32 ((raw : Int) - 3 + s.accOffset.toInt)).toNat 0]

/-- Where an instruction begins after a header, and the address kind and address it is decoded with (42_dispatch.md R186,
R187, R189). A packet that begins with its instruction and an accessory address pass no kind and address on: log entry
6. -/
def specCursor : Header → Cursor
  | .bare => ⟨0, .broadcast, 0⟩
  | .broadcast => ⟨1, .broadcast, 0⟩
  | .mf7 a => ⟨1, .mf7, BitVec.ofNat 14 a.toNat⟩
  | .mf14 hi lo => ⟨2, .mf14, BitVec.ofNat 14 (hi.toNat * 256 + lo.toNat)⟩
  | .reserved _ => ⟨1, .reserved, 0⟩
  | .idleSystem => ⟨1, .idleSystem, 0⟩
  | .accPom _ _ _ _ => ⟨2, .broadcast, 0⟩
  | .accExtPom _ _ _ => ⟨2, .broadcast, 0⟩

/-- The grammar reads these bytes as the instruction `i` after every multi-function header (43_multifunction.md
R220). -/
def readsAs (bytes : List Byte) (i : Instr) : Prop :=
  ∀ (pos : Nat) (other : Bool), decodeMf pos other bytes = .instr i

/-- A packet with this content is the instruction `i` alone, in either service mode. -/
def packetReadsAs (content : List Byte) (i : Instr) : Prop :=
  ∀ svc : Bool, decodePacket svc content = ⟨.bare, .instr i⟩

/-- The opcodes no multi-function instruction has (43_multifunction.md R227, R233, R253, 44_cv_access.md R285, R290,
R297). -/
def reservedOpcode (op : Nat) : Bool :=
  decide (op ∈ [0x04, 0x05, 0x08, 0x09, 0x0C, 0x0D, 0x10, 0x11]) || decide (0x14 ≤ op ∧ op ≤ 0x3C) ||
    decide (0xC2 ≤ op ∧ op ≤ 0xD7) || decide (0xE0 ≤ op ∧ op ≤ 0xE3) || decide (op ∈ [0xF0, 0xF1]) ||
    decide (0xF6 ≤ op ∧ op ≤ 0xF8) || decide (0xFA ≤ op)

/-- A reserved opcode, or the reserved time form (43_multifunction.md R241). -/
def reservedForm (op : Byte) (ops : List Byte) : Bool :=
  reservedOpcode op.toNat || (op == 0xC1#8 && ops.head?.any fun t => decide (192 ≤ t.toNat))

/-- The content bytes of a packet: every byte but the last, or the single byte (42_dispatch.md R180). -/
def specContent (pkt : List PktByte) : List Byte :=
  match pkt with
  | [] => []
  | [b] => [b.val]
  | a :: b :: rest => ((a :: b :: rest).map PktByte.val).dropLast

/-- The content of the packet in the buffer: every byte but the last, or the single byte (42_dispatch.md R180). -/
def State.hasContent (s : State) (content : List Byte) : Prop :=
  content ≠ [] ∧
    ((∃ cs : Byte, s.dp.pkt.map PktByte.val = content ++ [cs]) ∨
      (content.length = 1 ∧ s.dp.pkt.map PktByte.val = content))

/-- A header a multi-function instruction may follow (42_dispatch.md R185). -/
def mfHeader (svc : Bool) : Header → Bool
  | .broadcast => true
  | .mf7 a => a != 0 && !(svc && decide (112 ≤ a.toNat))
  | .mf14 hi _ => decide (hi.toNat ≤ 39)
  | .bare => false
  | .reserved _ => false
  | .idleSystem => false
  | .accPom _ _ _ _ => false
  | .accExtPom _ _ _ => false

/-- The `other` flag of the UNKNOWN records after a header (42_dispatch.md R184, R187). -/
def otherFlag : Header → Nat
  | .mf7 a => if 112 ≤ a.toNat then 1 else 0
  | .bare => 0
  | .broadcast => 0
  | .mf14 _ _ => 0
  | .reserved _ => 0
  | .idleSystem => 0
  | .accPom _ _ _ _ => 0
  | .accExtPom _ _ _ => 0

/-! ### Classes over rational microseconds -/

/-- `us(d) = d * 1 000 000 / FS` (00_scope.md R12). -/
def us (fs d : Nat) : ℚ := (d : ℚ) * 1000000 / (fs : ℚ)

/-- The condition of 40_classifier.md R119. -/
def specOne (tol part1 part2 : ℚ) : Prop :=
  (52 * (1 - tol) ≤ part1 ∧ part1 ≤ 64 * (1 + tol)) ∧ (52 * (1 - tol) ≤ part2 ∧ part2 ≤ 64 * (1 + tol)) ∧
    |part1 - part2| ≤ max 6 (2 * tol * (part1 + part2))

/-- The condition of 40_classifier.md R120. -/
def specZero (part1 part2 : ℚ) : Prop :=
  (90 ≤ part1 ∧ part1 ≤ 10000 ∧ 90 ≤ part2 ∧ part2 ≤ 119) ∨ (90 ≤ part2 ∧ part2 ≤ 10000 ∧ 90 ≤ part1 ∧ part1 ≤ 119)

/-- The condition of 40_classifier.md R122. -/
def specStraddle (tol part1 part2 : ℚ) : Prop := 128 * (1 + tol) < part1 + part2 ∧ part1 + part2 < 180

/-- The condition of 40_classifier.md R123. -/
def specRailcom (part1 part2 : ℚ) : Prop := 454 ≤ part1 + part2 ∧ part1 + part2 ≤ 613

/-- A class is reachable at a rate and tolerance (70_reset_and_hazards.md R364). -/
def reachable (c : WindowClass) (fs tol : Nat) : Prop := ∃ d1 d2, (classifyHalves fs tol d1 d2).1 = c

/-! ### A packet on the line -/

/-- The bits of a byte, most significant first (20_memory.md R65). -/
def byteBits (b : Byte) : List Bool :=
  [b.getLsbD 7, b.getLsbD 6, b.getLsbD 5, b.getLsbD 4, b.getLsbD 3, b.getLsbD 2, b.getLsbD 1, b.getLsbD 0]

/-- The bits after the packet start bit: each byte, then Zero before another byte and One at the end
(30_encoding.md R81). -/
def lineBits : List Byte → List Bool
  | [] => []
  | [b] => byteBits b ++ [true]
  | b :: c :: rest => byteBits b ++ false :: lineBits (c :: rest)

/-- A classified bit as the framer gets it: a ONE or a ZERO window with its stretched flag and the samples of its first
and last edge (41_framer.md R140). -/
structure LineBit where
  bit : Bool
  stretched : Bool
  start : Ts
  stop : Ts
deriving DecidableEq, Repr

/-- A run of classified bits through the framer. -/
def feed : List LineBit → State → Out
  | [], s => .next s
  | w :: ws, s => andThen (framer (if w.bit then .one else .zero) w.stretched w.start w.stop s) (feed ws)

/-- The BIT record of a bit, with the short-pulse sum it reports (41_framer.md R145). -/
def LineBit.record (short : Nat) (w : LineBit) : Record :=
  { kind := 1
    start := w.start
    stop := w.stop
    a0 := if w.bit then 1 else 0
    a1 := if w.stretched then 1 else 0
    a2 := BitVec.ofNat 32 (min short (2 ^ 32 - 1))
    a3 := 0 }

/-- The BIT records of a run of bits: the first reports and clears the short-pulse sum (41_framer.md R145). -/
def bitRecords (short : Nat) : List LineBit → List Record
  | [] => []
  | w :: ws => w.record short :: ws.map (LineBit.record 0)

/-! ### Invariants -/

/-- The configuration is legal while running; while stopped the datapath is reset and no record is pending; an edge
is held only by the filter (10_state.md R30, R31, 40_classifier.md R112, 70_reset_and_hazards.md R352). -/
def State.Configured (s : State) : Prop :=
  (s.running = true → 25000 ≤ s.samplerate.toNat ∧ s.tolPm.toNat ≤ 500) ∧
  (s.running = false → s.dp = Datapath.reset ∧ s.outq = []) ∧
  (s.dp.pendValid = true → s.ignoreShort = true)

/-- The framer's bounds (10_state.md R36, R37, R39): at most 8 bits, at most 16 bytes, no byte outside DATA, at least
one One in PRE, no cursor between steps. -/
def State.Framed (s : State) : Prop :=
  s.dp.bitcnt ≤ 8 ∧ s.dp.pkt.length ≤ 16 ∧ (s.dp.fsm ≠ .data → s.dp.pkt = []) ∧
  (s.dp.fsm = .pre → 1 ≤ s.dp.preCnt.toNat) ∧ s.cur = Cursor.idle

/-- `t` is earlier than every edge still to be delivered to the window. -/
def Datapath.past (d : Datapath) (t : Ts) : Prop :=
  if d.pendValid then t < d.pendTs else t ≤ d.lastTs

/-- `t` is past, and not after the first edge of the window in progress. -/
def Datapath.framed (d : Datapath) (t : Ts) : Prop := d.past t ∧ (d.phase ≠ .start → t ≤ d.t1)

/-- Bytes in reception order: each ends no earlier than it starts, and before the next starts. -/
def inOrder (pkt : List PktByte) : Prop :=
  (∀ b ∈ pkt, b.start ≤ b.stop) ∧ pkt.Pairwise fun a b => a.stop ≤ b.start

/-- The sample indices the datapath holds are in the order of the edges (20_memory.md R68, 40_classifier.md R110). -/
def Datapath.Timed (d : Datapath) : Prop :=
  (d.lastValid = false → d = Datapath.reset) ∧
  (d.pendValid = true → d.pendTs ≤ d.lastTs) ∧
  (d.phase ≠ .start → d.past d.t1) ∧
  (d.phase = .stop → d.t1 < d.t2 ∧ d.past d.t2) ∧
  (d.fsm = .pre → d.framed d.preStart) ∧
  (d.fsm = .data →
    inOrder d.pkt ∧ (∀ b ∈ d.pkt, d.framed b.stop) ∧
    (1 ≤ d.bitcnt → d.framed d.byteStart ∧ ∀ b ∈ d.pkt, b.stop ≤ d.byteStart) ∧
    (d.bitcnt = 8 → d.byteStart ≤ d.byteEnd ∧ d.framed d.byteEnd))

/-- The records that have left or are pending, oldest first. -/
def State.stream (s : State) : List Record := s.host.taken ++ s.outq

/-- Every record the host gets or will get starts no later than it ends (30_encoding.md R96). -/
def State.RangesOrdered (s : State) : Prop := ∀ r ∈ s.stream, r.start ≤ r.stop

/-- Every record the host gets or will get is one the format admits (30_encoding.md R97, R98). -/
def State.RecordsLegal (s : State) : Prop := ∀ r ∈ s.stream, r.legal

/-! ### Runs -/

/-- The interaction stays inside the register space (20_memory.md R60). -/
def HostAct.inSpace : HostAct → Bool
  | .edge _ _ => true
  | .accept => true
  | .memRead offset => decide (offset < 256)
  | .memWrite offset _ => decide (offset < 256)
  | .hardReset => true

/-- A host that addresses only offsets the register space has. -/
def State.hostInSpace (s : State) : Bool := s.host.script.all HostAct.inSpace

/-- An interaction that resets or starts the block, or can: hardware reset or a write to CTRL. -/
def HostAct.restarts : HostAct → Bool
  | .hardReset => true
  | .memWrite offset _ => offset == 0
  | .edge _ _ => false
  | .accept => false
  | .memRead _ => false

end Sys2Proof.Machine
end

