-- ==== Sys2Proof/Certificates/Slice0/Obligations.lean ====
section
/-! DEFINITION. The statements. Each docstring names the rules of spec/ it formalises.

In the statements about one instruction, `s.cur.pos` is the packet index of its opcode (`i` of the rules) and the
hypothesis says that the packet buffer of `s` holds the opcode and all the operand bytes. Each says which bytes are the
instruction (`readsAs`) and the whole next state: the records appended to the output queue, and nothing else changed. -/

open Sys2Proof Sys2Proof.Machine

/-! ### Class 000 -/

/-- 43_multifunction.md R221, R222: RESET and HARD_RESET. -/
def Obligations.ResetAndHardResetEmitInstr : Prop :=
  ∀ (mk : List Byte → Instr) (op : Byte) (id : Nat),
    (mk, op, id) ∈ [(Instr.reset, 0x00#8, 0x01), (Instr.hardReset, 0x01#8, 0x02)] →
    ∀ (ops : List Byte) (s : State), s.cur.pos + ops.length < s.dp.pkt.length →
      let i := s.cur.pos
      readsAs (op :: ops) (mk ops) ∧
      exec (mk ops) s = .next { s with outq := s.outq ++
        ([specField s i i 0x02 id 0 0] ++ specUnclaimed s (i + 1) ops) }

/-- 43_multifunction.md R223, R225, R226: FACTORY_TEST, SET_ADV_ADDR, ACK_REQUEST report their F bit. -/
def Obligations.FlagInstructionsReportF : Prop :=
  ∀ (mk : BitVec 1 → List Byte → Instr) (op : BitVec 7) (id : Nat),
    (mk, op, id) ∈ [(Instr.factoryTest, 0b0000001#7, 0x03), (Instr.setAdvAddr, 0b0000101#7, 0x05),
      (Instr.ackRequest, 0b0000111#7, 0x06)] →
    ∀ (f : BitVec 1) (ops : List Byte) (s : State), s.cur.pos + ops.length < s.dp.pkt.length →
      let i := s.cur.pos
      readsAs ((op ++ f) :: ops) (mk f ops) ∧
      exec (mk f ops) s = .next { s with outq := s.outq ++
        ([specField s i i 0x02 id 0 0, specField s i i 0x13 f.toNat 0 0] ++ specUnclaimed s (i + 1) ops) }

/-- 43_multifunction.md R224: SET_DECODER_FLAGS, with its operand and without. -/
def Obligations.SetDecoderFlagsReportsRaw : Prop :=
  (∀ (f : BitVec 1) (ops : List Byte), readsAs ((0b0000011#7 ++ f) :: ops) (.setDecoderFlags f ops)) ∧
  (∀ (f : BitVec 1) (d : Byte) (rest : List Byte) (s : State), s.cur.pos + 1 + rest.length < s.dp.pkt.length →
    let i := s.cur.pos
    exec (.setDecoderFlags f (d :: rest)) s = .next { s with outq := s.outq ++
      ([specField s i i 0x02 0x04 0 0, specField s i i 0x13 f.toNat 0 0,
        specField s (i + 1) (i + 1) 0x14 d.toNat 0 0] ++ specUnclaimed s (i + 2) rest) }) ∧
  (∀ (f : BitVec 1) (s : State), s.cur.pos < s.dp.pkt.length →
    let i := s.cur.pos
    exec (.setDecoderFlags f []) s = .next { s with outq := s.outq ++
      [specField s i i 0x02 0x04 0 0, specField s i i 0x13 f.toNat 0 0, specMissing s (i + 1)] })

/-- 43_multifunction.md R228, R229: CONSIST_NORMAL and CONSIST_REVERSE; bit 7 of the operand is ignored. -/
def Obligations.ConsistReportsAddressAndDirection : Prop :=
  ∀ (mk : List Byte → Instr) (op : Byte) (id dir : Nat),
    (mk, op, id, dir) ∈ [(Instr.consistNormal, 0x12#8, 0x07, 0), (Instr.consistReverse, 0x13#8, 0x08, 1)] →
    (∀ ops : List Byte, readsAs (op :: ops) (mk ops)) ∧
    (∀ (d : Byte) (rest : List Byte) (s : State), s.cur.pos + 1 + rest.length < s.dp.pkt.length →
      let i := s.cur.pos
      exec (mk (d :: rest)) s = .next { s with outq := s.outq ++
        ([specField s i i 0x02 id 0 0, specField s (i + 1) (i + 1) 0x15 (d.toNat % 128) dir 0]
          ++ specUnclaimed s (i + 2) rest) }) ∧
    (∀ s : State, s.cur.pos < s.dp.pkt.length →
      let i := s.cur.pos
      exec (mk []) s = .next { s with outq := s.outq ++ [specField s i i 0x02 id 0 0, specMissing s (i + 1)] })

/-! ### Class 001 -/

/-- 43_multifunction.md R230: SPEED128; speed 0 is STOP (kind 1), 1 is ESTOP (kind 3), any other is a step. -/
def Obligations.Speed128ReportsStep : Prop :=
  (∀ ops : List Byte, readsAs (0x3F#8 :: ops) (.speed128 ops)) ∧
  (∀ (d : Byte) (rest : List Byte) (s : State), s.cur.pos + 1 + rest.length < s.dp.pkt.length →
    let i := s.cur.pos
    let v := d.toNat % 128
    exec (.speed128 (d :: rest)) s = .next { s with outq := s.outq ++
      ([specField s i i 0x02 0x09 0 0,
        specField s (i + 1) (i + 1) 0x10 (d.toNat / 128) (if v = 0 then 1 else if v = 1 then 3 else 0) (v - 1)]
        ++ specUnclaimed s (i + 2) rest) }) ∧
  (∀ s : State, s.cur.pos < s.dp.pkt.length →
    let i := s.cur.pos
    exec (.speed128 []) s = .next { s with outq := s.outq ++ [specField s i i 0x02 0x09 0 0, specMissing s (i + 1)] })

/-- 43_multifunction.md R231, R232: RESTRICTED_SPEED and ANALOG_FUNCTION. -/
def Obligations.RestrictedSpeedAndAnalogFunction : Prop :=
  (∀ ops : List Byte, readsAs (0x3E#8 :: ops) (.restrictedSpeed ops) ∧ readsAs (0x3D#8 :: ops) (.analogFunction ops)) ∧
  (∀ (d : Byte) (rest : List Byte) (s : State), s.cur.pos + 1 + rest.length < s.dp.pkt.length →
    let i := s.cur.pos
    exec (.restrictedSpeed (d :: rest)) s = .next { s with outq := s.outq ++
      ([specField s i i 0x02 0x0A 0 0, specField s (i + 1) (i + 1) 0x16 (d.toNat / 128) (d.toNat % 32) 0]
        ++ specUnclaimed s (i + 2) rest) }) ∧
  (∀ s : State, s.cur.pos < s.dp.pkt.length →
    let i := s.cur.pos
    exec (.restrictedSpeed []) s = .next { s with outq := s.outq ++
      [specField s i i 0x02 0x0A 0 0, specMissing s (i + 1)] }) ∧
  (∀ (v d : Byte) (rest : List Byte) (s : State), s.cur.pos + 2 + rest.length < s.dp.pkt.length →
    let i := s.cur.pos
    exec (.analogFunction (v :: d :: rest)) s = .next { s with outq := s.outq ++
      ([specField s i i 0x02 0x0B 0 0, specField s (i + 1) (i + 2) 0x17 v.toNat d.toNat 0]
        ++ specUnclaimed s (i + 3) rest) }) ∧
  (∀ (v : Byte) (s : State), s.cur.pos + 1 < s.dp.pkt.length →
    let i := s.cur.pos
    exec (.analogFunction [v]) s = .next { s with outq := s.outq ++
      [specField s i i 0x02 0x0B 0 0, specMissing s (i + 2)] }) ∧
  (∀ s : State, s.cur.pos < s.dp.pkt.length →
    let i := s.cur.pos
    exec (.analogFunction []) s = .next { s with outq := s.outq ++
      [specField s i i 0x02 0x0B 0 0, specMissing s (i + 1)] })

/-! ### Classes 010 to 101 -/

/-- 43_multifunction.md R234: SPEED_REV and SPEED_FWD in the 28-step convention; the C bit is the least significant
bit of the code `v`. -/
def Obligations.Speed28ReportsStep : Prop :=
  ∀ (mk : BitVec 1 → BitVec 4 → List Byte → Instr) (op : BitVec 3) (id dir : Nat),
    (mk, op, id, dir) ∈ [(Instr.speedRev, 0b010#3, 0x0C, 0), (Instr.speedFwd, 0b011#3, 0x0D, 1)] →
    ∀ (c : BitVec 1) (speed : BitVec 4) (ops : List Byte) (s : State), s.mode.getLsbD 1 = false →
      s.cur.pos + ops.length < s.dp.pkt.length →
      let i := s.cur.pos
      let v := 2 * speed.toNat + c.toNat
      readsAs ((op ++ c ++ speed) :: ops) (mk c speed ops) ∧
      exec (mk c speed ops) s = .next { s with outq := s.outq ++
        ([specField s i i 0x02 id 0 0,
          specField s i i 0x10 dir
            (if v = 0 then 1 else if v = 1 then 2 else if v = 2 then 3 else if v = 3 then 4 else 0) (v - 3)]
          ++ specUnclaimed s (i + 1) ops) }

/-- 43_multifunction.md R235: SPEED_REV and SPEED_FWD in the 14-step convention, with F0 in bit 4. -/
def Obligations.Speed14ReportsStepAndF0 : Prop :=
  ∀ (mk : BitVec 1 → BitVec 4 → List Byte → Instr) (op : BitVec 3) (id dir : Nat),
    (mk, op, id, dir) ∈ [(Instr.speedRev, 0b010#3, 0x0C, 0), (Instr.speedFwd, 0b011#3, 0x0D, 1)] →
    ∀ (c : BitVec 1) (speed : BitVec 4) (ops : List Byte) (s : State), s.mode.getLsbD 1 = true →
      s.cur.pos + ops.length < s.dp.pkt.length →
      let i := s.cur.pos
      let v := speed.toNat
      readsAs ((op ++ c ++ speed) :: ops) (mk c speed ops) ∧
      exec (mk c speed ops) s = .next { s with outq := s.outq ++
        ([specField s i i 0x02 id 0 0,
          specField s i i 0x10 dir (if v = 0 then 1 else if v = 1 then 3 else 0) (v - 1),
          specField s i i 0x11 0 1 c.toNat]
          ++ specUnclaimed s (i + 1) ops) }

/-- 43_multifunction.md R236 to R239: FG1 in both conventions, FG2_F5F8 and FG2_F9F12. -/
def Obligations.FunctionGroupsReportStates : Prop :=
  ∀ (f : BitVec 4) (ops : List Byte) (s : State), s.cur.pos + ops.length < s.dp.pkt.length →
    let i := s.cur.pos
    (∀ f0 : BitVec 1, readsAs ((0b100#3 ++ f0 ++ f) :: ops) (.fg1 f0 f ops)) ∧
    readsAs ((0b1011#4 ++ f) :: ops) (.fg2F5F8 f ops) ∧ readsAs ((0b1010#4 ++ f) :: ops) (.fg2F9F12 f ops) ∧
    (∀ f0 : BitVec 1, s.mode.getLsbD 1 = false → exec (.fg1 f0 f ops) s = .next { s with outq := s.outq ++
      ([specField s i i 0x02 0x0E 0 0, specField s i i 0x11 0 5 (f0.toNat + 2 * f.toNat)]
        ++ specUnclaimed s (i + 1) ops) }) ∧
    (∀ f0 : BitVec 1, s.mode.getLsbD 1 = true → exec (.fg1 f0 f ops) s = .next { s with outq := s.outq ++
      ([specField s i i 0x02 0x0E 0 0, specField s i i 0x11 1 4 f.toNat, specField s i i 0x12 4 f0.toNat 0]
        ++ specUnclaimed s (i + 1) ops) }) ∧
    exec (.fg2F5F8 f ops) s = .next { s with outq := s.outq ++
      ([specField s i i 0x02 0x0F 0 0, specField s i i 0x11 5 4 f.toNat] ++ specUnclaimed s (i + 1) ops) } ∧
    exec (.fg2F9F12 f ops) s = .next { s with outq := s.outq ++
      ([specField s i i 0x02 0x10 0 0, specField s i i 0x11 9 4 f.toNat] ++ specUnclaimed s (i + 1) ops) }

/-! ### Class 110 -/

/-- 43_multifunction.md R245 to R251: the function bytes F13 to F68. -/
def Obligations.FunctionBytesReportEightStates : Prop :=
  ∀ (mk : List Byte → Instr) (op : Byte) (id firstFn : Nat),
    (mk, op, id, firstFn) ∈ [(Instr.f13F20, 0xDE#8, 0x1B, 13), (Instr.f21F28, 0xDF#8, 0x1C, 21),
      (Instr.f29F36, 0xD8#8, 0x15, 29), (Instr.f37F44, 0xD9#8, 0x16, 37), (Instr.f45F52, 0xDA#8, 0x17, 45),
      (Instr.f53F60, 0xDB#8, 0x18, 53), (Instr.f61F68, 0xDC#8, 0x19, 61)] →
    (∀ ops : List Byte, readsAs (op :: ops) (mk ops)) ∧
    (∀ (d : Byte) (rest : List Byte) (s : State), s.cur.pos + 1 + rest.length < s.dp.pkt.length →
      let i := s.cur.pos
      exec (mk (d :: rest)) s = .next { s with outq := s.outq ++
        ([specField s i i 0x02 id 0 0, specField s (i + 1) (i + 1) 0x11 firstFn 8 d.toNat]
          ++ specUnclaimed s (i + 2) rest) }) ∧
    (∀ s : State, s.cur.pos < s.dp.pkt.length →
      let i := s.cur.pos
      exec (mk []) s = .next { s with outq := s.outq ++ [specField s i i 0x02 id 0 0, specMissing s (i + 1)] })

/-- 43_multifunction.md R240, R252: BINSTATE_LONG, low part first, and BINSTATE_SHORT. -/
def Obligations.BinaryStateReportsAddressAndState : Prop :=
  (∀ ops : List Byte, readsAs (0xC0#8 :: ops) (.binstateLong ops) ∧ readsAs (0xDD#8 :: ops) (.binstateShort ops)) ∧
  (∀ (lo hi : Byte) (rest : List Byte) (s : State), s.cur.pos + 2 + rest.length < s.dp.pkt.length →
    let i := s.cur.pos
    exec (.binstateLong (lo :: hi :: rest)) s = .next { s with outq := s.outq ++
      ([specField s i i 0x02 0x11 0 0,
        specField s (i + 1) (i + 2) 0x18 (hi.toNat * 128 + lo.toNat % 128) (lo.toNat / 128) 0]
        ++ specUnclaimed s (i + 3) rest) }) ∧
  (∀ (lo : Byte) (s : State), s.cur.pos + 1 < s.dp.pkt.length →
    let i := s.cur.pos
    exec (.binstateLong [lo]) s = .next { s with outq := s.outq ++
      [specField s i i 0x02 0x11 0 0, specMissing s (i + 2)] }) ∧
  (∀ s : State, s.cur.pos < s.dp.pkt.length →
    let i := s.cur.pos
    exec (.binstateLong []) s = .next { s with outq := s.outq ++
      [specField s i i 0x02 0x11 0 0, specMissing s (i + 1)] }) ∧
  (∀ (d : Byte) (rest : List Byte) (s : State), s.cur.pos + 1 + rest.length < s.dp.pkt.length →
    let i := s.cur.pos
    exec (.binstateShort (d :: rest)) s = .next { s with outq := s.outq ++
      ([specField s i i 0x02 0x1A 0 0, specField s (i + 1) (i + 1) 0x18 (d.toNat % 128) (d.toNat / 128) 0]
        ++ specUnclaimed s (i + 2) rest) }) ∧
  (∀ s : State, s.cur.pos < s.dp.pkt.length →
    let i := s.cur.pos
    exec (.binstateShort []) s = .next { s with outq := s.outq ++
      [specField s i i 0x02 0x1A 0 0, specMissing s (i + 1)] })

/-- 43_multifunction.md R241 to R244: the three time commands, after NOT_BROADCAST when the address kind is not
BROADCAST; with the third byte missing, and with the second. -/
def Obligations.TimeCommandsReportFields : Prop :=
  ∀ (m : BitVec 6) (s : State),
    let i := s.cur.pos
    let warn := if s.cur.kind = .broadcast then [] else [specField s i i 0x1F s.cur.addr.toNat 0 0]
    (∀ ops : List Byte, readsAs (0xC1#8 :: (0b00#2 ++ m) :: ops) (.modelTime m ops) ∧
      readsAs (0xC1#8 :: (0b01#2 ++ m) :: ops) (.modelDate m ops) ∧
      readsAs (0xC1#8 :: (0b10#2 ++ m) :: ops) (.systemTime m ops)) ∧
    (∀ (b2 b3 : Byte) (rest : List Byte), s.cur.pos + 3 + rest.length < s.dp.pkt.length →
      exec (.modelTime m (b2 :: b3 :: rest)) s = .next { s with outq := s.outq ++
        (specField s i i 0x02 0x12 0 0 :: warn ++
          [specField s (i + 1) (i + 2) 0x19 (b2.toNat % 32) m.toNat 0, specField s (i + 2) (i + 2) 0x1A (b2.toNat / 32) 0 0,
            specField s (i + 3) (i + 3) 0x1B (b3.toNat / 128) (b3.toNat % 64) 0]
          ++ specUnclaimed s (i + 4) rest) } ∧
      exec (.modelDate m (b2 :: b3 :: rest)) s = .next { s with outq := s.outq ++
        (specField s i i 0x02 0x13 0 0 :: warn ++
          [specField s (i + 1) (i + 2) 0x1C (m.toNat % 32) (b2.toNat / 16) 0,
            specField s (i + 2) (i + 3) 0x1D (b2.toNat % 16 * 256 + b3.toNat) 0 0]
          ++ specUnclaimed s (i + 4) rest) } ∧
      exec (.systemTime m (b2 :: b3 :: rest)) s = .next { s with outq := s.outq ++
        (specField s i i 0x02 0x14 0 0 :: warn ++
          [specField s (i + 2) (i + 3) 0x1E (b2.toNat * 256 + b3.toNat) 0 0] ++ specUnclaimed s (i + 4) rest) }) ∧
    (∀ (mk : BitVec 6 → List Byte → Instr) (id : Nat),
      (mk, id) ∈ [(Instr.modelTime, 0x12), (Instr.modelDate, 0x13), (Instr.systemTime, 0x14)] →
      (∀ b2 : Byte, s.cur.pos + 2 < s.dp.pkt.length →
        exec (mk m [b2]) s = .next { s with outq := s.outq ++
          (specField s i i 0x02 id 0 0 :: warn ++ [specMissing s (i + 3)]) }) ∧
      (s.cur.pos + 1 < s.dp.pkt.length →
        exec (mk m []) s = .next { s with outq := s.outq ++
          (specField s i i 0x02 id 0 0 :: warn ++ [specMissing s (i + 2)]) }))

/-! ### Class 111 -/

/-- 44_cv_access.md R281 to R284: POM_VERIFY, POM_BIT, POM_WRITE with 2, 1 and 0 operand bytes. -/
def Obligations.PomReportsCvAndData : Prop :=
  ∀ (mk : BitVec 2 → List Byte → Instr) (op : BitVec 6) (id operation : Nat),
    (mk, op, id, operation) ∈ [(Instr.pomVerify, 0b111001#6, 0x20, 1), (Instr.pomBit, 0b111010#6, 0x21, 2),
      (Instr.pomWrite, 0b111011#6, 0x22, 3)] →
    ∀ (hi : BitVec 2) (s : State),
      let i := s.cur.pos
      (∀ ops : List Byte, ops.length ≤ 2 → readsAs ((op ++ hi) :: ops) (mk hi ops)) ∧
      (∀ v d : Byte, s.cur.pos + 2 < s.dp.pkt.length →
        exec (mk hi [v, d]) s = .next { s with outq := s.outq ++
          [specField s i i 0x02 id 0 0,
            specField s (i + 1) (i + 1) 0x20 (hi.toNat * 256 + v.toNat + 1) operation 0,
            if operation = 2 then specField s (i + 2) (i + 2) 0x22 (d.toNat / 16 % 2) (d.toNat % 8) (d.toNat / 8 % 2)
            else specField s (i + 2) (i + 2) 0x21 d.toNat 0 0] }) ∧
      (∀ v : Byte, s.cur.pos + 1 < s.dp.pkt.length →
        exec (mk hi [v]) s = .next { s with outq := s.outq ++
          [specField s i i 0x02 id 0 0,
            specField s (i + 1) (i + 1) 0x20 (hi.toNat * 256 + v.toNat + 1) operation 0, specMissing s (i + 2)] }) ∧
      (s.cur.pos < s.dp.pkt.length →
        exec (mk hi []) s = .next { s with outq := s.outq ++ [specField s i i 0x02 id 0 0, specMissing s (i + 1)] })

/-- 44_cv_access.md R286 to R289: XPOM_READ, XPOM_BIT, XPOM_WRITE; the CV number has its most significant byte
first, and XPOM_WRITE takes one to four data bytes. -/
def Obligations.XpomReportsCvAndData : Prop :=
  ∀ (ss : BitVec 2) (v2 v1 v0 : Byte) (s : State),
    let i := s.cur.pos
    let cv := v2.toNat * 65536 + v1.toNat * 256 + v0.toNat + 1
    (∀ rest : List Byte, readsAs ((0b111001#6 ++ ss) :: v2 :: v1 :: v0 :: rest) (.xpomRead ss (v2 :: v1 :: v0 :: rest)) ∧
      readsAs ((0b111010#6 ++ ss) :: v2 :: v1 :: v0 :: rest) (.xpomBit ss (v2 :: v1 :: v0 :: rest)) ∧
      readsAs ((0b111011#6 ++ ss) :: v2 :: v1 :: v0 :: rest) (.xpomWrite ss (v2 :: v1 :: v0 :: rest))) ∧
    (∀ rest : List Byte, s.cur.pos + 3 + rest.length < s.dp.pkt.length →
      exec (.xpomRead ss (v2 :: v1 :: v0 :: rest)) s = .next { s with outq := s.outq ++
        ([specField s i i 0x02 0x23 0 0, specField s (i + 1) (i + 3) 0x23 1 ss.toNat cv]
          ++ specUnclaimed s (i + 4) rest) }) ∧
    (∀ (d : Byte) (rest : List Byte), s.cur.pos + 4 + rest.length < s.dp.pkt.length →
      exec (.xpomBit ss (v2 :: v1 :: v0 :: d :: rest)) s = .next { s with outq := s.outq ++
        ([specField s i i 0x02 0x24 0 0, specField s (i + 1) (i + 3) 0x23 2 ss.toNat cv,
          specField s (i + 4) (i + 4) 0x22 (d.toNat / 16 % 2) (d.toNat % 8) (d.toNat / 8 % 2)]
          ++ specUnclaimed s (i + 5) rest) }) ∧
    (s.cur.pos + 3 < s.dp.pkt.length →
      exec (.xpomBit ss [v2, v1, v0]) s = .next { s with outq := s.outq ++
        [specField s i i 0x02 0x24 0 0, specField s (i + 1) (i + 3) 0x23 2 ss.toNat cv, specMissing s (i + 4)] }) ∧
    (∀ data : List Byte, data ≠ [] → s.cur.pos + 3 + data.length < s.dp.pkt.length →
      exec (.xpomWrite ss (v2 :: v1 :: v0 :: data)) s = .next { s with outq := s.outq ++
        ([specField s i i 0x02 0x25 0 0, specField s (i + 1) (i + 3) 0x23 3 ss.toNat cv]
          ++ (data.take 4).mapIdx (fun m d => specField s (i + 4 + m) (i + 4 + m) 0x21 d.toNat 0 0)
          ++ specUnclaimed s (i + 8) (data.drop 4)) }) ∧
    (s.cur.pos + 3 < s.dp.pkt.length →
      exec (.xpomWrite ss [v2, v1, v0]) s = .next { s with outq := s.outq ++
        [specField s i i 0x02 0x25 0 0, specField s (i + 1) (i + 3) 0x23 3 ss.toNat cv, specMissing s (i + 4)] })

/-- 44_cv_access.md R292, R293, R296: CV_ACCEL, CV_DECEL and DECODER_LOCK. -/
def Obligations.OneByteShortFormsReportTheirCv : Prop :=
  (∀ ops : List Byte, readsAs (0xF2#8 :: ops) (.cvAccel ops) ∧ readsAs (0xF3#8 :: ops) (.cvDecel ops) ∧
    readsAs (0xF9#8 :: ops) (.decoderLock ops)) ∧
  (∀ (mk : List Byte → Instr) (id cv : Nat),
    (mk, id, cv) ∈ [(Instr.cvAccel, 0x26, 23), (Instr.cvDecel, 0x27, 24)] →
    (∀ (d : Byte) (rest : List Byte) (s : State), s.cur.pos + 1 + rest.length < s.dp.pkt.length →
      let i := s.cur.pos
      exec (mk (d :: rest)) s = .next { s with outq := s.outq ++
        ([specField s i i 0x02 id 0 0, specField s i i 0x20 cv 3 0, specField s (i + 1) (i + 1) 0x21 d.toNat 0 0]
          ++ specUnclaimed s (i + 2) rest) }) ∧
    (∀ s : State, s.cur.pos < s.dp.pkt.length →
      let i := s.cur.pos
      exec (mk []) s = .next { s with outq := s.outq ++
        [specField s i i 0x02 id 0 0, specField s i i 0x20 cv 3 0, specMissing s (i + 1)] })) ∧
  (∀ (d : Byte) (rest : List Byte) (s : State), s.cur.pos + 1 + rest.length < s.dp.pkt.length →
    let i := s.cur.pos
    exec (.decoderLock (d :: rest)) s = .next { s with outq := s.outq ++
      ([specField s i i 0x02 0x2A 0 0, specField s (i + 1) (i + 1) 0x24 (d.toNat % 128) 0 0]
        ++ specUnclaimed s (i + 2) rest) }) ∧
  (∀ s : State, s.cur.pos < s.dp.pkt.length →
    let i := s.cur.pos
    exec (.decoderLock []) s = .next { s with outq := s.outq ++
      [specField s i i 0x02 0x2A 0 0, specMissing s (i + 1)] })

/-- 44_cv_access.md R294, R295: CV_LONGADDR writes CV 17 and 18, CV_INDEX CV 31 and 32; with both data bytes, one,
and none. -/
def Obligations.TwoByteShortFormsReportTheirCvs : Prop :=
  ∀ (mk : List Byte → Instr) (op : Byte) (id cv1 cv2 : Nat),
    (mk, op, id, cv1, cv2) ∈ [(Instr.cvLongaddr, 0xF4#8, 0x28, 17, 18), (Instr.cvIndex, 0xF5#8, 0x29, 31, 32)] →
    ∀ s : State,
      let i := s.cur.pos
      (∀ ops : List Byte, readsAs (op :: ops) (mk ops)) ∧
      (∀ (d1 d2 : Byte) (rest : List Byte), s.cur.pos + 2 + rest.length < s.dp.pkt.length →
        exec (mk (d1 :: d2 :: rest)) s = .next { s with outq := s.outq ++
          ([specField s i i 0x02 id 0 0, specField s i i 0x20 cv1 3 0, specField s (i + 1) (i + 1) 0x21 d1.toNat 0 0,
            specField s i i 0x20 cv2 3 0, specField s (i + 2) (i + 2) 0x21 d2.toNat 0 0]
            ++ specUnclaimed s (i + 3) rest) }) ∧
      (∀ d1 : Byte, s.cur.pos + 1 < s.dp.pkt.length →
        exec (mk [d1]) s = .next { s with outq := s.outq ++
          [specField s i i 0x02 id 0 0, specField s i i 0x20 cv1 3 0, specField s (i + 1) (i + 1) 0x21 d1.toNat 0 0,
            specField s i i 0x20 cv2 3 0, specMissing s (i + 2)] }) ∧
      (s.cur.pos < s.dp.pkt.length →
        exec (mk []) s = .next { s with outq := s.outq ++
          [specField s i i 0x02 id 0 0, specField s i i 0x20 cv1 3 0, specMissing s (i + 1)] })

/-! ### Service mode, accessories, idle and system -/

/-- 44_cv_access.md R299 to R301: the direct instructions, whose packets have exactly two bytes after byte 0. -/
def Obligations.ServiceDirectReportsCvAndData : Prop :=
  ∀ (mk : BitVec 2 → List Byte → Instr) (op : BitVec 6) (id operation : Nat),
    (mk, op, id, operation) ∈ [(Instr.smDirectVerify, 0b011101#6, 0x30, 1), (Instr.smDirectBit, 0b011110#6, 0x31, 2),
      (Instr.smDirectWrite, 0b011111#6, 0x32, 3)] →
    ∀ (a : BitVec 2) (v d : Byte) (s : State), 2 < s.dp.pkt.length →
      decodePacket true [op ++ a, v, d] = ⟨.bare, .instr (mk a [v, d])⟩ ∧
      exec (mk a [v, d]) s = .next { s with outq := s.outq ++
        [specField s 0 0 0x02 id 0 0,
          specField s 1 1 0x20 (a.toNat * 256 + v.toNat + 1) operation 0,
          if operation = 2 then specField s 2 2 0x22 (d.toNat / 16 % 2) (d.toNat % 8) (d.toNat / 8 % 2)
          else specField s 2 2 0x21 d.toNat 0 0] }

/-- 44_cv_access.md R303, R304: the register instructions, whose packets have exactly one byte after byte 0. -/
def Obligations.ServiceRegisterReportsRegister : Prop :=
  ∀ (mk : BitVec 3 → List Byte → Instr) (op : BitVec 5) (id operation : Nat),
    (mk, op, id, operation) ∈ [(Instr.smRegVerify, 0b01110#5, 0x33, 0), (Instr.smRegWrite, 0b01111#5, 0x34, 1)] →
    ∀ (r : BitVec 3) (d : Byte) (s : State), 1 < s.dp.pkt.length →
      decodePacket true [op ++ r, d] = ⟨.bare, .instr (mk r [d])⟩ ∧
      exec (mk r [d]) s = .next { s with outq := s.outq ++
        [specField s 0 0 0x02 id 0 0, specField s 1 1 0x25 operation (r.toNat + 1) d.toNat] }

/-- 42_dispatch.md R193, R194, R201: ACC_BASIC; the three high address bits are sent complemented, and the user
address is signed. -/
def Obligations.AccessoryBasicReportsAddresses : Prop :=
  ∀ (lo : BitVec 6) (hi : BitVec 3) (d : BitVec 1) (port : BitVec 2) (r : BitVec 1) (ops : List Byte) (s : State),
    1 + ops.length < s.dp.pkt.length →
    let dec9 := (7 - hi.toNat) * 64 + lo.toNat
    let user : Int := (dec9 * 4 + port.toNat : Nat) - 3 + s.accOffset.toInt
    (¬ (∃ e ∈ ops.head?, e.toNat / 16 = 14) →
      packetReadsAs ((0b10#2 ++ lo) :: (1#1 ++ hi ++ d ++ port ++ r) :: ops) (.accBasic lo hi d port r ops)) ∧
    exec (.accBasic lo hi d port r ops) s = .next { s with outq := s.outq ++
      ([specField s 0 1 0x30 dec9 port.toNat (BitVec.ofInt 32 user).toNat, specField s 1 1 0x02 0x38 0 0,
        specField s 1 1 0x31 d.toNat r.toNat 0] ++ specUnclaimed s 2 ops) }

/-- 42_dispatch.md R196, R197, R199, R201: ACC_EXT, with its aspect and without, and ACC_NOP. -/
def Obligations.AccessoryExtendedReportsAddresses : Prop :=
  ∀ (lo : BitVec 6) (hi : BitVec 3) (port : BitVec 2) (s : State),
    let raw := (7 - hi.toNat) * 256 + lo.toNat * 4 + port.toNat
    let addr := specField s 0 1 0x34 raw (BitVec.ofInt 32 ((raw : Int) - 3 + s.accOffset.toInt)).toNat 0
    (∀ ops : List Byte, ¬ (2 ≤ ops.length ∧ ∃ e ∈ ops.head?, e.toNat / 16 = 14) →
      packetReadsAs ((0b10#2 ++ lo) :: (0#1 ++ hi ++ 0#1 ++ port ++ 1#1) :: ops) (.accExt lo hi port ops)) ∧
    (∀ (t : BitVec 1) (ops : List Byte),
      packetReadsAs ((0b10#2 ++ lo) :: (0#1 ++ hi ++ 1#1 ++ port ++ t) :: ops) (.accNop lo hi port t ops)) ∧
    (∀ (d : Byte) (rest : List Byte), 2 + rest.length < s.dp.pkt.length →
      exec (.accExt lo hi port (d :: rest)) s = .next { s with outq := s.outq ++
        ([addr, specField s 1 1 0x02 0x39 0 0, specField s 2 2 0x35 d.toNat 0 0] ++ specUnclaimed s 3 rest) }) ∧
    (1 < s.dp.pkt.length →
      exec (.accExt lo hi port []) s = .next { s with outq := s.outq ++
        [addr, specField s 1 1 0x02 0x39 0 0, specMissing s 2] }) ∧
    (∀ (t : BitVec 1) (ops : List Byte), 1 + ops.length < s.dp.pkt.length →
      exec (.accNop lo hi port t ops) s = .next { s with outq := s.outq ++
        ([addr, specField s 1 1 0x02 0x3A 0 0, specField s 1 1 0x36 t.toNat 0 0] ++ specUnclaimed s 2 ops) })

/-- 42_dispatch.md R191, R192: IDLE and SYSCMD; no byte of a system command is unclaimed. -/
def Obligations.IdleAndSystemCommand : Prop :=
  (∀ ops : List Byte, packetReadsAs (0xFF#8 :: 0x00#8 :: ops) (.idle ops)) ∧
  (∀ (n : Byte) (ops : List Byte), n ≠ 0 → packetReadsAs (0xFF#8 :: n :: ops) (.sysCmd n ops)) ∧
  (∀ (ops : List Byte) (s : State), 1 + ops.length < s.dp.pkt.length →
    exec (.idle ops) s = .next { s with outq := s.outq ++
      ([specField s 0 0 0x01 4 255 0, specField s 1 1 0x02 0x3C 0 0] ++ specUnclaimed s 2 ops) }) ∧
  (∀ (n : Byte) (ops : List Byte) (s : State), n ≠ 0 → 1 + ops.length < s.dp.pkt.length →
    exec (.sysCmd n ops) s = .next { s with outq := s.outq ++
      ([specField s 0 0 0x01 4 255 0, specField s 1 1 0x02 0x3D 0 0, specField s 1 1 0x38 n.toNat 0 0]
        ++ ops.mapIdx fun m d => specField s (2 + m) (2 + m) 0x39 d.toNat 0 0) })

/-! ### All instructions -/

/-- 30_encoding.md R100, 42_dispatch.md R182: every instruction completes in every state, appends FIELD records and
nothing else, exactly one of them is INSTR, with its own id, and a BYTE_MISSING among them is the last. -/
def Obligations.EveryInstructionReportsItsIdOnce : Prop :=
  ∀ (i : Instr) (s : State), ∃ new : List Record,
    exec i s = .next { s with outq := s.outq ++ new } ∧ (∀ r ∈ new, r.kind = 6) ∧
    (new.filter fun r => r.a0 == 2).map Record.a1 = [BitVec.ofNat 32 (instrId i)] ∧
    ∀ r ∈ new.dropLast, r.a0 ≠ 3

/-- 42_dispatch.md R203: the FIELD records of a packet are a function of its content bytes and ranges, SERVICE_MODE,
SPEED14 and ACC_OFFSET; two states that agree on these give the same records, whatever the checksum byte and the rest of
the state. -/
def Obligations.FieldsDependOnPacketAndModeOnly : Prop :=
  ∀ s u : State, s.dp.pkt.map (fun b => (b.start, b.stop)) = u.dp.pkt.map (fun b => (b.start, b.stop)) →
    specContent s.dp.pkt = specContent u.dp.pkt → s.mode.getLsbD 0 = u.mode.getLsbD 0 →
    s.mode.getLsbD 1 = u.mode.getLsbD 1 → s.accOffset = u.accOffset →
    ∃ new : List Record,
      (∃ s', decodeAndRun s = .next s' ∧ s'.outq = s.outq ++ new) ∧
      (∃ u', decodeAndRun u = .next u' ∧ u'.outq = u.outq ++ new)

/-! ### Decoding -/

/-- Decoding an encoded well-formed packet gives back its header and its instruction, every operand at every value
(30_encoding.md R83 to R87). -/
def Obligations.DecodeOfEncode : Prop :=
  ∀ (svc : Bool) (h : Header) (i : Instr), packetWf svc h i = true →
    decodePacket svc (encodePacket h i) = ⟨h, .instr i⟩

/-- A content that fits the packet buffer and holds an instruction is the encoding of a well-formed packet: no bit is
dropped, and nothing reserved is read as an instruction (30_encoding.md R83 to R88). -/
def Obligations.DecodedContentIsWellFormed : Prop :=
  ∀ (svc : Bool) (content : List Byte) (h : Header) (i : Instr), content.length ≤ 15 →
    decodePacket svc content = ⟨h, .instr i⟩ → packetWf svc h i = true ∧ encodePacket h i = content

/-- The contents of a few packets, written out from the layouts of 30_encoding.md R83 to R86, decode to the
instructions they stand for: one for each family. -/
def Obligations.WrittenPacketsDecode : Prop :=
  decodePacket false [0b00000000#8, 0b00000000#8] = ⟨.broadcast, .instr (.reset [])⟩ ∧
  decodePacket false [0b00000011#8, 0b00111111#8, 0b10010000#8] = ⟨.mf7 3, .instr (.speed128 [0x90])⟩ ∧
  decodePacket false [0b00000011#8, 0b01110010#8] = ⟨.mf7 3, .instr (.speedFwd 1 2 [])⟩ ∧
  decodePacket false [0b11000000#8, 0b00000001#8, 0b10010101#8] = ⟨.mf14 0 1, .instr (.fg1 1 5 [])⟩ ∧
  decodePacket false [0b00000000#8, 0b11000001#8, 0b00011110#8, 0b01101100#8, 0b10000100#8]
    = ⟨.broadcast, .instr (.modelTime 30 [0x6C, 0x84])⟩ ∧
  decodePacket false [0b00000011#8, 0b11101001#8, 0b00010110#8, 0b11110101#8]
    = ⟨.mf7 3, .instr (.pomBit 1 [0x16, 0xF5])⟩ ∧
  decodePacket false [0b00000011#8, 0b11100101#8, 0b00000000#8, 0b00000000#8, 0b00010110#8]
    = ⟨.mf7 3, .instr (.xpomRead 1 [0, 0, 0x16])⟩ ∧
  decodePacket true [0b01111011#8, 0b00100010#8] = ⟨.bare, .instr (.smRegWrite 3 [0x22])⟩ ∧
  decodePacket true [0b01110100#8, 0b00000000#8, 0b00000101#8] = ⟨.bare, .instr (.smDirectVerify 0 [0, 5])⟩ ∧
  decodePacket false [0b10000001#8, 0b11111000#8] = ⟨.bare, .instr (.accBasic 1 7 1 0 0 [])⟩ ∧
  decodePacket false [0b10000001#8, 0b01110001#8, 0b00000101#8] = ⟨.bare, .instr (.accExt 1 7 0 [5])⟩ ∧
  decodePacket false [0b11111111#8, 0b00010010#8, 0b00110100#8] = ⟨.bare, .instr (.sysCmd 0x12 [0x34])⟩

/-- 42_dispatch.md R182, R186, R187, R189, R195, R198: in a packet whose content is the encoding of `h` and `i`, the
header's records come first, then `i` runs with the cursor at its first byte, the byte after the header, and with the
address kind and address of the header (the model's cursor is State, log entry 6). -/
def Obligations.PacketRunsItsInstruction : Prop :=
  ∀ (h : Header) (i : Instr) (s : State), packetWf s.serviceMode h i = true → s.hasContent (encodePacket h i) →
    (specCursor h).pos = (encodeHeader h).length ∧
    ∃ t : State, exec i { s with outq := s.outq ++ specHeader s h, cur := specCursor h } = .next t ∧
      decodeAndRun s = .next { t with cur := Cursor.idle }

/-- 42_dispatch.md R184, 43_multifunction.md R227, R233, R241, R253, 44_cv_access.md R285, R290, R297: a reserved
opcode or time form is UNKNOWN with every byte after it, after a multi-function header and after an accessory POM
header. -/
def Obligations.ReservedOpcodesAreUnknown : Prop :=
  ∀ (h : Header) (op : Byte) (ops : List Byte) (s : State), s.cur = Cursor.idle →
    s.hasContent (encodeHeader h ++ op :: ops) →
    (mfHeader (s.mode.getLsbD 0) h = true ∧ reservedForm op ops = true ∨
      (∃ lo hi c ddd, h = .accPom lo hi c ddd) ∧ 224 ≤ op.toNat ∧ op.toNat ≤ 227 ∨
      (∃ lo hi port, h = .accExtPom lo hi port) ∧ 224 ≤ op.toNat ∧ op.toNat ≤ 227 ∧ ops ≠ []) →
    decodeAndRun s = .next { s with outq := s.outq ++
      (specHeader s h ++ specUnknown s h.size (otherFlag h) (op :: ops)) }

/-- 30_encoding.md R85, 43_multifunction.md R220, R254: every other opcode is an instruction, but 0xC1 with nothing
after it. -/
def Obligations.OtherOpcodesAreInstructions : Prop :=
  ∀ (pos : Nat) (other : Bool) (op : Byte) (ops : List Byte), reservedForm op ops = false →
    (op = 0xC1#8 → ops ≠ []) → ∃ i : Instr, decodeMf pos other (op :: ops) = .instr i ∧ encode i = op :: ops

/-- 42_dispatch.md R182, R189 to R191, R193, R200, 43_multifunction.md R220, R241, 44_cv_access.md R302, R305: the
packets that end before an instruction is recognised, and the address bytes and shapes that hold none. -/
def Obligations.PacketsWithoutInstruction : Prop :=
  ∀ s : State, s.cur = Cursor.idle →
    (∀ h : Header, mfHeader (s.mode.getLsbD 0) h = true → s.hasContent (encodeHeader h) →
      decodeAndRun s = .next { s with outq := s.outq ++ (specHeader s h ++ [specMissing s h.size]) }) ∧
    (∀ h : Header, mfHeader (s.mode.getLsbD 0) h = true → s.hasContent (encodeHeader h ++ [0xC1]) →
      decodeAndRun s = .next { s with outq := s.outq ++ (specHeader s h ++ [specMissing s (h.size + 1)]) }) ∧
    (∀ a : Byte, 128 ≤ a.toNat → a.toNat ≤ 231 → s.hasContent [a] →
      decodeAndRun s = .next { s with outq := s.outq ++ [specMissing s 1] }) ∧
    (∀ (a : Byte) (ops : List Byte), 232 ≤ a.toNat → a.toNat ≤ 254 → s.hasContent (a :: ops) →
      decodeAndRun s = .next { s with outq := s.outq ++ [specField s 0 0 0x01 3 a.toNat 0] }) ∧
    (s.hasContent [0xFF] →
      decodeAndRun s = .next { s with outq := s.outq ++ [specField s 0 0 0x01 4 255 0, specMissing s 1] }) ∧
    (∀ (a b : Byte) (ops : List Byte), 128 ≤ a.toNat → a.toNat ≤ 191 →
      b.getLsbD 7 = false → b.getLsbD 3 = false → b.getLsbD 0 = false → s.hasContent (a :: b :: ops) →
      decodeAndRun s = .next { s with outq := s.outq ++ specUnknown s 0 0 (a :: b :: ops) }) ∧
    (∀ a b d : Byte, 112 ≤ a.toNat → a.toNat ≤ 115 → s.mode.getLsbD 0 = true → s.hasContent [a, b, d] →
      decodeAndRun s = .next { s with outq := s.outq ++ specUnknown s 0 0 [a, b, d] }) ∧
    (∀ (a : Byte) (ops : List Byte), 112 ≤ a.toNat → a.toNat ≤ 127 → s.mode.getLsbD 0 = true →
      ops.length ≠ 1 → ops.length ≠ 2 → s.hasContent (a :: ops) →
      decodeAndRun s = .next { s with outq := s.outq ++ specUnknown s 0 1 (a :: ops) })

/-! ### The step -/

/-- The step that accepts the closing edge of a packet end bit decodes the packet and runs its instruction
(00_scope.md R9, 41_framer.md R154, R155): when the content decodes to `i` after the header `h`, the step is `exec i` on
the state with the edge accepted, the window advanced, the BIT, BYTE and header records emitted and the cursor at the
instruction with the header's address kind and address, followed by the CHECKSUM and PACKET_END records and the return
to WAIT. -/
def Obligations.StepRunsTheDecodedInstruction : Prop :=
  ∀ (s : State) (ts : Ts) (level : Bool) (rest : List HostAct) (h : Header) (i : Instr),
    s.running = true → s.mode.getLsbD 2 = false → s.outq = [] → s.host.script = .edge ts level :: rest →
    (s.dp.lastValid = true → s.dp.lastTs < ts) → s.dp.phase = .stop → s.dp.fsm = .data → s.dp.bitcnt = 8 →
    s.dp.pkt.length < 16 → (classify s s.dp.t1 s.dp.t2 ts).1 = .one →
    let last : PktByte := ⟨s.dp.acc, s.dp.byteStart, s.dp.byteEnd⟩
    let pkt := s.dp.pkt ++ [last]
    decodePacket (s.mode.getLsbD 0) (specContent pkt) = ⟨h, .instr i⟩ →
    let x := xorBytes (s.dp.pkt.map PktByte.val)
    let v : State := { s with
      dp := { s.dp with
        lastValid := true, lastTs := ts, t1 := ts, phase := .mid, accShort := 0, pkt := pkt }
      host := { s.host with script := rest } }
    let u : State := { v with
      outq := LineBit.record s.dp.accShort.toNat ⟨true, false, s.dp.t1, ts⟩ ::
        (pkt.mapIdx (fun k b => (⟨5, b.start, b.stop, BitVec.ofNat 32 b.val.toNat, BitVec.ofNat 32 k, 0, 0⟩ : Record))
          ++ specHeader v h)
      cur := specCursor h }
    ∃ t : State, exec i u = .next t ∧
      step s = .next { t with
        outq := t.outq ++
          [if s.dp.pkt = [] then ⟨7, last.start, last.stop, 2, 0, 0, 0⟩
            else ⟨7, last.start, last.stop, if x = last.val then 0 else 1, BitVec.ofNat 32 x.toNat,
              BitVec.ofNat 32 last.val.toNat, 0⟩,
            ⟨8, s.dp.t1, ts, 0, 0, 0, 0⟩]
        cur := Cursor.idle
        dp := { t.dp with fsm := .wait, pkt := [] } }

/-- The placing of an opcode-table word (log entries 4 and 5): from any state, the very next step runs the instruction
that `decodeTableWord` reads from the word, and reports its id. -/
def Obligations.PlacedWordIsRunNext : Prop :=
  ∀ (s : State) (nbits w : Nat) (i : Instr), nbits ≤ 96 → decodeTableWord nbits w = some i →
    ∃ s', step (s.withFetchWord nbits w) = .next s' ∧
      (s'.outq.filter fun r => r.kind == 6 && r.a0 == 2).map Record.a1 = [BitVec.ofNat 32 (instrId i)]

/-- 10_state.md R21, R110 to R113 of 40_classifier.md: what a step does with an edge, by cases; the short-pulse test is
exact over rational microseconds. -/
def Obligations.EdgeStepFiltersAndDelivers : Prop :=
  ∀ (s : State) (ts : Ts) (level : Bool) (rest : List HostAct), s.outq = [] →
    s.host.script = .edge ts level :: rest →
    let u : State := { s with host := { s.host with script := rest } }
    let v : State := { u with dp := { s.dp with lastValid := true, lastTs := ts } }
    (s.running = false → step s = .next u) ∧
    (s.running = true → s.dp.lastValid = true → ts ≤ s.dp.lastTs → step s = .next { u with tsErr := true }) ∧
    (s.running = true → (s.dp.lastValid = true → s.dp.lastTs < ts) →
      (s.mode.getLsbD 2 = false → step s = deliver ts level v) ∧
      (s.mode.getLsbD 2 = true → s.dp.pendValid = false →
        step s = .next { v with dp := { v.dp with pendValid := true, pendTs := ts, pendLevel := level } }) ∧
      (s.mode.getLsbD 2 = true → s.dp.pendValid = true → s.dp.pendTs < ts → 0 < s.samplerate.toNat →
        let len := ts.toNat - s.dp.pendTs.toNat
        (us s.samplerate.toNat len ≤ (s.shortThrNs.toNat : ℚ) / 1000 →
          step s = .next { v with dp := { v.dp with
            pendValid := false, accShort := BitVec.ofNat 64 (min (s.dp.accShort.toNat + len) (2 ^ 64 - 1)) } }) ∧
        ((s.shortThrNs.toNat : ℚ) / 1000 < us s.samplerate.toNat len →
          step s = deliver s.dp.pendTs s.dp.pendLevel { v with dp := { v.dp with pendTs := ts, pendLevel := level } })))

/-- 40_classifier.md R115 to R117: what a delivered edge does in each phase of the window. -/
def Obligations.DeliveredEdgeFillsTheWindow : Prop :=
  ∀ (s : State) (ts : Ts) (level : Bool),
    (s.dp.phase = .start → level = s.dp.pol →
      deliver ts level s = .next { s with dp := { s.dp with t1 := ts, phase := .mid } }) ∧
    (s.dp.phase = .start → level ≠ s.dp.pol → deliver ts level s = .next s) ∧
    (s.dp.phase = .mid → deliver ts level s = .next { s with dp := { s.dp with t2 := ts, phase := .stop } }) ∧
    (s.dp.phase = .stop →
      let c := classify s s.dp.t1 s.dp.t2 ts
      deliver ts level s = framer c.1 c.2 s.dp.t1 ts { s with dp := advanceWindow c.1 ts level s.dp })

/-! ### Classification -/

/-- 00_scope.md R12, 40_classifier.md R118 to R124: a window is classified by its two halves, the sample rate and the
tolerance, and the model's integer comparisons decide the rules' conditions over rational microseconds exactly, in the
order of R118, for every rate above 0 and every tolerance. -/
def Obligations.ClassesAreTheExactRationalOnes : Prop :=
  (∀ (s : State) (t1 t2 t3 : Ts), t1 ≤ t2 → t2 ≤ t3 →
    classify s t1 t2 t3 = classifyHalves s.samplerate.toNat s.tolPm.toNat (t2 - t1).toNat (t3 - t2).toNat) ∧
  ∀ fs tolPm d1 d2 : Nat, 0 < fs →
    let tol : ℚ := (tolPm : ℚ) / 1000
    let p1 := us fs d1
    let p2 := us fs d2
    let c := classifyHalves fs tolPm d1 d2
    (c.1 = .one ↔ specOne tol p1 p2) ∧
    (c.1 = .zero ↔ ¬ specOne tol p1 p2 ∧ specZero p1 p2) ∧
    (c.1 = .straddle ↔ ¬ specOne tol p1 p2 ∧ ¬ specZero p1 p2 ∧ specStraddle tol p1 p2) ∧
    (c.1 = .railcom ↔ ¬ specOne tol p1 p2 ∧ ¬ specZero p1 p2 ∧ ¬ specStraddle tol p1 p2 ∧ specRailcom p1 p2) ∧
    (c.1 = .unknown ↔ ¬ specOne tol p1 p2 ∧ ¬ specZero p1 p2 ∧ ¬ specStraddle tol p1 p2 ∧ ¬ specRailcom p1 p2) ∧
    (c.2 = true ↔ c.1 = .zero ∧ 119 < max p1 p2)

/-- 70_reset_and_hazards.md R364: which classes a sample rate can resolve. -/
def Obligations.SampleRateDecidesReachableClasses : Prop :=
  (∀ tol, ¬ reachable .zero 25000 tol) ∧
  (∀ tol, tol ≤ 500 → (reachable .one 25000 tol ↔ 231 ≤ tol)) ∧
  (∀ fs, (25000 ≤ fs ∧ fs ≤ 31249) ∨ (33334 ≤ fs ∧ fs ≤ 33613) ∨ (38462 ≤ fs ∧ fs ≤ 46874) ∨
      (57693 ≤ fs ∧ fs ≤ 62499) ∨ (76924 ≤ fs ∧ fs ≤ 78124) →
    ¬ (reachable .one fs 0 ∧ reachable .zero fs 0)) ∧
  (∀ fs, 83334 ≤ fs → reachable .one fs 0 ∧ reachable .zero fs 0)

/-- 40_classifier.md R125 to R127: how the window advances after each class. -/
def Obligations.WindowAdvancesByClass : Prop :=
  ∀ (c : WindowClass) (t3 : Ts) (level : Bool) (d : Datapath),
    (c ∈ [.one, .zero, .railcom] → advanceWindow c t3 level d = { d with t1 := t3, phase := .mid }) ∧
    (c = .straddle → advanceWindow c t3 level d = { d with pol := !d.pol, phase := .start }) ∧
    (c = .unknown → level = d.pol → advanceWindow c t3 level d = { d with t1 := t3, phase := .mid }) ∧
    (c = .unknown → level ≠ d.pol → advanceWindow c t3 level d = { d with phase := .start })

/-! ### Framer -/

/-- 41_framer.md R141 to R144: UNKNOWN and STRADDLE windows resynchronise in every state, RAILCOM changes nothing but
the stream. -/
def Obligations.AnomaliesResynchronise : Prop :=
  ∀ (s : State) (stretched : Bool) (t1 t3 : Ts),
    framer .unknown stretched t1 t3 s = .next { s with
      outq := s.outq ++ [⟨3, t1, t3, 1, 0, 0, 0⟩]
      dp := { s.dp with fsm := .wait, pkt := [], accShort := 0 } } ∧
    framer .straddle stretched t1 t3 s = .next { s with
      outq := s.outq ++ [⟨3, t1, t3, 2, 0, 0, 0⟩]
      dp := { s.dp with fsm := .wait, pkt := [], accShort := 0 } } ∧
    framer .railcom stretched t1 t3 s = .next { s with outq := s.outq ++ [⟨2, t1, t3, 0, 0, 0, 0⟩] }

/-- 41_framer.md R145 to R150: a bit in WAIT and in PRE, after its BIT record. -/
def Obligations.PreambleBits : Prop :=
  ∀ (s : State) (bit stretched : Bool) (t1 t3 : Ts),
    let c : WindowClass := if bit then .one else .zero
    let rec1 : Record := ⟨1, t1, t3, if bit then 1 else 0, if stretched then 1 else 0,
      BitVec.ofNat 32 (min s.dp.accShort.toNat (2 ^ 32 - 1)), 0⟩
    let d : Datapath := { s.dp with accShort := 0 }
    (s.dp.fsm = .wait → bit = true → framer c stretched t1 t3 s = .next { s with
      outq := s.outq ++ [rec1], dp := { d with fsm := .pre, preCnt := 1, preStart := t1 } }) ∧
    (s.dp.fsm = .wait → bit = false → framer c stretched t1 t3 s = .next { s with
      outq := s.outq ++ [rec1], dp := d }) ∧
    (s.dp.fsm = .pre → bit = true → framer c stretched t1 t3 s = .next { s with
      outq := s.outq ++ [rec1]
      dp := { d with preCnt := BitVec.ofNat 16 (min (s.dp.preCnt.toNat + 1) 65535) } }) ∧
    (s.dp.fsm = .pre → bit = false → 10 ≤ s.dp.preCnt.toNat → framer c stretched t1 t3 s = .next { s with
      outq := s.outq ++ [rec1, ⟨4, s.dp.preStart, t3, BitVec.ofNat 32 s.dp.preCnt.toNat, 0, 0, 0⟩]
      dp := { d with fsm := .data, bitcnt := 0, acc := 0, pkt := [] } }) ∧
    (s.dp.fsm = .pre → bit = false → s.dp.preCnt.toNat < 10 → framer c stretched t1 t3 s = .next { s with
      outq := s.outq ++ [rec1, ⟨3, s.dp.preStart, t3, 3, BitVec.ofNat 32 s.dp.preCnt.toNat, 0, 0⟩]
      dp := { d with fsm := .wait, pkt := [] } })

/-- 20_memory.md R65, 41_framer.md R145, R151, 40_classifier.md R121: a data bit, of either class and with either
stretched flag, shifts into the accumulator after its BIT record; eight of them make the byte, most significant bit
first, with the range of the first bit's start to the last bit's end and their BIT records in full; the rest of the state
stays. -/
def Obligations.EightBitsMakeAByte : Prop :=
  (∀ (s : State) (bit stretched : Bool) (t1 t3 : Ts), s.dp.fsm = .data → s.dp.bitcnt < 8 →
    framer (if bit then .one else .zero) stretched t1 t3 s = .next { s with
      outq := s.outq ++ [LineBit.record s.dp.accShort.toNat ⟨bit, stretched, t1, t3⟩]
      dp := { s.dp with
        byteStart := if s.dp.bitcnt = 0 then t1 else s.dp.byteStart
        acc := BitVec.ofNat 8 (2 * s.dp.acc.toNat + bit.toNat)
        bitcnt := s.dp.bitcnt + 1
        byteEnd := if s.dp.bitcnt = 7 then t3 else s.dp.byteEnd
        accShort := 0 } }) ∧
  (∀ (s : State) (b : Byte) (ws : List LineBit), s.dp.fsm = .data → s.dp.bitcnt = 0 →
    ws.map LineBit.bit = byteBits b →
    feed ws s = .next { s with
      outq := s.outq ++ bitRecords s.dp.accShort.toNat ws
      dp := { s.dp with
        acc := b
        bitcnt := 8
        byteStart := (ws.headD ⟨false, false, 0, 0⟩).start
        byteEnd := (ws.getLastD ⟨false, false, 0, 0⟩).stop
        accShort := 0 } })

/-- 41_framer.md R152 to R154, 60_exceptions.md R326: the marker bit over a full buffer, before another byte, and at
the packet's end. -/
def Obligations.MarkerBits : Prop :=
  ∀ (s : State) (bit stretched : Bool) (t1 t3 : Ts), s.dp.fsm = .data → s.dp.bitcnt = 8 →
    let c : WindowClass := if bit then .one else .zero
    let rec1 : Record := ⟨1, t1, t3, if bit then 1 else 0, if stretched then 1 else 0,
      BitVec.ofNat 32 (min s.dp.accShort.toNat (2 ^ 32 - 1)), 0⟩
    let pkt := s.dp.pkt ++ [⟨s.dp.acc, s.dp.byteStart, s.dp.byteEnd⟩]
    (s.dp.pkt.length = 16 → framer c stretched t1 t3 s = .next { s with
      outq := s.outq ++ [rec1, ⟨3, (s.dp.pkt.getD 0 ⟨0, 0, 0⟩).start, t3, 4, 16, 0, 0⟩]
      dp := { s.dp with fsm := .wait, pkt := [], accShort := 0 } }) ∧
    (s.dp.pkt.length < 16 → bit = false → framer c stretched t1 t3 s = .next { s with
      outq := s.outq ++ [rec1]
      dp := { s.dp with pkt := pkt, bitcnt := 0, acc := 0, accShort := 0 } }) ∧
    (s.dp.pkt.length < 16 → bit = true →
      ∃ t : State, finalise t1 t3 { s with
          outq := s.outq ++ [rec1], dp := { s.dp with pkt := pkt, accShort := 0 } } = .next t ∧
        framer c stretched t1 t3 s = .next { t with dp := { t.dp with fsm := .wait, pkt := [] } })

/-- 41_framer.md R155 to R160: finalisation emits one BYTE record for each byte, the decoder's FIELD records, the
CHECKSUM record and PACKET_END, in this order, and changes nothing else. -/
def Obligations.FinaliseEmitsInOrder : Prop :=
  ∀ (s : State) (m1 m3 : Ts), s.cur = Cursor.idle → s.dp.pkt ≠ [] →
    let pkt := s.dp.pkt
    let bytes := pkt.map PktByte.val
    let last := pkt.getLastD ⟨0, 0, 0⟩
    let x := xorBytes bytes.dropLast
    ∃ fields : List Record, (∀ r ∈ fields, r.kind = 6) ∧
      decodeAndRun s = .next { s with outq := s.outq ++ fields } ∧
      finalise m1 m3 s = .next { s with outq := s.outq ++
        (pkt.mapIdx (fun k b => (⟨5, b.start, b.stop, BitVec.ofNat 32 b.val.toNat, BitVec.ofNat 32 k, 0, 0⟩ : Record))
          ++ fields
          ++ [if pkt.length = 1 then ⟨7, last.start, last.stop, 2, 0, 0, 0⟩
              else ⟨7, last.start, last.stop, if x = last.val then 0 else 1, BitVec.ofNat 32 x.toNat,
                BitVec.ofNat 32 last.val.toNat, 0⟩,
            ⟨8, m1, m3, 0, 0, 0, 0⟩]) }

/-- 30_encoding.md R81, 20_memory.md R65, 40_classifier.md R121, 41_framer.md R145 to R156: the framer inverts the line
coding. From WAIT, a preamble of at least 10 Ones, the start bit and the bits of 1 to 16 bytes, whatever their sample
indices and stretched flags, give one PREAMBLE record with the count, one BYTE record for each byte with its value and
index, the BIT record of every bit in full and in order, no RESYNC, and WAIT with an empty buffer. -/
def Obligations.FramerReadsWhatTheLineCarries : Prop :=
  ∀ (s : State) (n : Nat) (bytes : List Byte) (ws : List LineBit), s.dp.fsm = .wait → 10 ≤ n →
    bytes ≠ [] → bytes.length ≤ 16 → ws.map LineBit.bit = List.replicate n true ++ false :: lineBits bytes →
    ∃ (t : State) (new : List Record), feed ws s = .next t ∧ t.outq = s.outq ++ new ∧
      t.dp.fsm = .wait ∧ t.dp.pkt = [] ∧
      (new.filter fun r => r.kind == 4).map Record.a0 = [BitVec.ofNat 32 (min n 65535)] ∧
      (new.filter fun r => r.kind == 5).map (fun r => (r.a0, r.a1)) =
        bytes.mapIdx (fun k b => (BitVec.ofNat 32 b.toNat, BitVec.ofNat 32 k)) ∧
      (new.filter fun r => r.kind == 3) = [] ∧
      (new.filter fun r => r.kind == 1) = bitRecords s.dp.accShort.toNat ws

/-! ### Ports -/

/-- 70_reset_and_hazards.md R350, 10_state.md R42: what hardware reset leaves. -/
def Obligations.HardwareResetValues : Prop :=
  ∀ s : State, ∃ t : State, perform .hardReset s = .next t ∧
    t.running = false ∧ t.cfgErr = false ∧ t.tsErr = false ∧ t.samplerate = 0 ∧ t.tolPm = 0 ∧ t.shortThrNs = 4000 ∧
    t.mode = 0 ∧ t.accOffset = 0 ∧ t.dp.lastValid = false ∧ t.dp.lastTs = 0 ∧ t.dp.pendValid = false ∧
    t.dp.pendTs = 0 ∧ t.dp.pendLevel = false ∧ t.dp.accShort = 0 ∧ t.dp.pol = true ∧ t.dp.phase = .start ∧
    t.dp.t1 = 0 ∧ t.dp.t2 = 0 ∧ t.dp.fsm = .wait ∧ t.dp.preCnt = 0 ∧ t.dp.preStart = 0 ∧ t.dp.bitcnt = 0 ∧
    t.dp.acc = 0 ∧ t.dp.byteStart = 0 ∧ t.dp.byteEnd = 0 ∧ t.dp.pkt = [] ∧ t.outq = []

/-- 10_state.md R31, 70_reset_and_hazards.md R352, R353, 60_exceptions.md R323: what a write to CTRL does: soft reset
first, then the start check, and nothing while running or without a command bit. -/
def Obligations.ControlWriteResetsOrStarts : Prop :=
  ∀ (s : State) (v : Word),
    (v.getLsbD 1 = true → perform (.memWrite 0x00 v) s = .next { s with
      running := false, cfgErr := false, tsErr := false, dp := State.reset.dp, outq := [] }) ∧
    (v.getLsbD 1 = false → v.getLsbD 0 = true → s.running = false →
      (s.samplerate.toNat < 25000 ∨ 500 < s.tolPm.toNat →
        perform (.memWrite 0x00 v) s = .next { s with cfgErr := true }) ∧
      (25000 ≤ s.samplerate.toNat → s.tolPm.toNat ≤ 500 →
        perform (.memWrite 0x00 v) s = .next { s with
          running := true, cfgErr := false, tsErr := false, dp := State.reset.dp, outq := [] })) ∧
    (v.getLsbD 1 = false → (v.getLsbD 0 = false ∨ s.running = true) → perform (.memWrite 0x00 v) s = .next s) ∧
    readReg 0x00 s = 0

/-- 10_state.md R32: the fields of STATUS; reads have no side effect and writes are ignored. -/
def Obligations.StatusFields : Prop :=
  ∀ (s : State) (v : Word),
    let w := readReg 0x04 s
    w.getLsbD 0 = s.running ∧ w.getLsbD 1 = s.cfgErr ∧ w.getLsbD 2 = s.tsErr ∧ w.getLsbD 3 = s.dp.pol ∧
    w.toNat / 16 % 4 = (match s.dp.fsm with | .wait => 0 | .pre => 1 | .data => 2) ∧
    w.toNat / 64 % 4 = (match s.dp.phase with | .start => 0 | .mid => 1 | .stop => 2) ∧
    w.getLsbD 8 = s.dp.pendValid ∧ w.toNat < 512 ∧
    perform (.memRead 0x04) s = .next { s with host := { s.host with reads := s.host.reads ++ [w] } } ∧
    perform (.memWrite 0x04 v) s = .next s

/-- 10_state.md R24 to R30, 20_memory.md R61: while stopped, a configuration register keeps the bits it defines of
what is written, its reserved bits read 0, every other register reads as before, and nothing else changes; while
running, the write has no effect. -/
def Obligations.ConfigurationRegistersHoldTheirBits : Prop :=
  ∀ (offset size : Nat) (v : Word) (s : State),
    (offset, size) ∈ [(0x08, 2 ^ 32), (0x0C, 2 ^ 10), (0x10, 2 ^ 32), (0x14, 2 ^ 3), (0x18, 2 ^ 16)] →
    (s.running = false →
      ∃ t : State, perform (.memWrite offset v) s = .next t ∧ (readReg offset t).toNat = v.toNat % size ∧
        (∀ o, o ≠ offset → readReg o t = readReg o s) ∧
        t.running = s.running ∧ t.cfgErr = s.cfgErr ∧ t.tsErr = s.tsErr ∧ t.dp = s.dp ∧ t.outq = s.outq ∧
        t.cur = s.cur ∧ t.host = s.host) ∧
    (s.running = true → perform (.memWrite offset v) s = .next s)

/-- 20_memory.md R62, 10_state.md R29: misaligned and reserved offsets read 0 and ignore writes. -/
def Obligations.MisalignedAndReservedOffsets : Prop :=
  ∀ (offset : Nat) (v : Word) (s : State), offset < 256 → offset % 4 ≠ 0 ∨ 0x1C ≤ offset →
    perform (.memWrite offset v) s = .next s ∧
    perform (.memRead offset) s = .next { s with host := { s.host with reads := s.host.reads ++ [0] } }

/-- The model's choice for an offset the space does not have (log entry 8): the access faults. 20_memory.md R60 gives
the space 256 bytes. -/
def Obligations.OffsetsOutsideTheSpaceFault : Prop :=
  ∀ (offset : Nat) (v : Word) (s : State), 256 ≤ offset →
    perform (.memWrite offset v) s = .fault (.outsideRegisterSpace offset) ∧
    perform (.memRead offset) s = .fault (.outsideRegisterSpace offset)

/-- 10_state.md R22: the host accepts the oldest record, and nothing else changes. -/
def Obligations.OldestRecordLeavesFirst : Prop :=
  ∀ (s : State) (r : Record) (rest : List Record) (acts : List HostAct), s.outq = r :: rest →
    s.host.script = .accept :: acts →
    step s = .next { s with
      outq := rest, host := { s.host with script := acts, taken := s.host.taken ++ [r] } }

/-- 10_state.md R21, 20_memory.md R63, R68, 60_exceptions.md R339, 70_reset_and_hazards.md R359: while a record is
pending no edge is accepted: a step leaves the datapath of a running block as it is, unless it resets it, and a host
that offers only edges waits. A step takes the first interaction of the host that is no waiting edge: an acceptance, a
register access or a hardware reset is performed whether or not records are pending and edges wait before it, an edge
when it is first and no record is pending. -/
def Obligations.PendingRecordsHoldEdgesBack : Prop :=
  (∀ s t : State, s.running = true → s.outq ≠ [] → step s = .next t → t.dp = s.dp ∨ t.running = false) ∧
  (∀ s : State, s.outq ≠ [] → (∀ a ∈ s.host.script, ∃ ts level, a = .edge ts level) → step s = .next s) ∧
  (∀ (s : State) (waiting : List HostAct) (a : HostAct) (rest : List HostAct),
    s.host.script = waiting ++ a :: rest → (∀ b ∈ waiting, ∃ ts level, b = .edge ts level) →
    (waiting = [] ∨ s.outq ≠ []) → ((∀ ts level, a ≠ .edge ts level) ∨ s.outq = []) →
    step s = perform a { s with host := { s.host with script := waiting ++ rest } })

/-! ### Runs -/

/-- 10_state.md R22, 20_memory.md R69: none is dropped, reordered or merged: what has left followed by what is pending
only grows at its end, and grows only when nothing was pending, while the host neither resets nor starts the block. -/
def Obligations.RecordStreamOnlyGrows : Prop :=
  ∀ s t : State, (∀ a ∈ s.host.script, a.restarts = false) → step s = .next t →
    ∃ new : List Record, t.stream = s.stream ++ new ∧ (s.outq ≠ [] → new = [])

/-- No step is refused, and none faults when the host stays inside the register space: a run of any length goes on
(60_exceptions.md R322; the fault outside the space is log entry 8). -/
def Obligations.RunsInsideTheSpaceGoOn : Prop :=
  ∀ (k : Nat) (s : State), s.hostInSpace = true →
    ∃ t : State, Sys2Proof.core.run k s = .next t ∧ State.hostInSpace t = true

/-- 10_state.md R30, R31: no step of a running block that stays running changes its configuration. -/
def Obligations.ConfigurationIsConstantInARun : Prop :=
  ∀ s t : State, s.running = true → t.running = true → step s = .next t →
    t.samplerate = s.samplerate ∧ t.tolPm = s.tolPm ∧ t.shortThrNs = s.shortThrNs ∧ t.mode = s.mode ∧
    t.accOffset = s.accOffset

/-- 10_state.md R32: a step clears TS_ERR or CFG_ERR only by a reset, which leaves the block stopped, or by a successful
start, and only when the host resets it or writes CTRL. -/
def Obligations.ErrorBitsAreSticky : Prop :=
  ∀ s t : State, step s = .next t →
    (s.tsErr = true ∧ t.tsErr = false) ∨ (s.cfgErr = true ∧ t.cfgErr = false) →
    (t.running = false ∨ (s.running = false ∧ t.running = true)) ∧ ∃ a ∈ s.host.script, a.restarts = true

/-- 40_classifier.md R126, 41_framer.md R144: in a run the polarity changes only by a STRADDLE, which flips it and
reports RESYNC(POLARITY) in the same step. -/
def Obligations.PolarityChangesOnlyByStraddle : Prop :=
  ∀ s t : State, s.Configured → step s = .next t → t.dp.pol ≠ s.dp.pol →
    t.running = false ∨
      (s.outq = [] ∧ t.dp.pol = !s.dp.pol ∧ ∃ r ∈ t.outq, r.kind = 3 ∧ r.a0 = 2)

/-- Every step keeps the machine's bounds and its configuration legal (10_state.md R30, R31, R36, R37, R43). -/
def Obligations.StepKeepsConfiguredAndFramed : Prop :=
  ∀ s t : State, s.Configured → s.Framed → step s = .next t → t.Configured ∧ t.Framed

/-- Every step keeps the sample indices of the datapath in order, and every record of the stream starts no later than
it ends (30_encoding.md R96). -/
def Obligations.StepKeepsTimeAndRangesOrdered : Prop :=
  ∀ s t : State, s.Configured → s.Framed → s.dp.Timed → s.RangesOrdered → step s = .next t →
    t.dp.Timed ∧ t.RangesOrdered

/-- Every step keeps the stream made of records the format admits, each kind, reason, verdict and field code with
arguments it can carry (30_encoding.md R96 to R104). -/
def Obligations.StepKeepsRecordsLegal : Prop :=
  ∀ s t : State, s.Framed → s.RecordsLegal → step s = .next t → t.RecordsLegal

/-- The invariants hold after hardware reset. -/
def Obligations.ResetMeetsTheInvariants : Prop :=
  State.reset.Configured ∧ State.reset.Framed ∧ State.reset.dp.Timed ∧ State.reset.RangesOrdered ∧
    State.reset.RecordsLegal
end

