-- ==== Sys2Proof/Laws/State.lean ====
section
/-! SUPPORT. What each update of the state leaves and sets: one lemma for each field and update. -/

namespace Sys2Proof.Machine

@[simp] theorem State.emit_running (s : State) (rs : List Record) : (s.emit rs).running = s.running := rfl
@[simp] theorem State.emit_cfgErr (s : State) (rs : List Record) : (s.emit rs).cfgErr = s.cfgErr := rfl
@[simp] theorem State.emit_tsErr (s : State) (rs : List Record) : (s.emit rs).tsErr = s.tsErr := rfl
@[simp] theorem State.emit_samplerate (s : State) (rs : List Record) : (s.emit rs).samplerate = s.samplerate := rfl
@[simp] theorem State.emit_tolPm (s : State) (rs : List Record) : (s.emit rs).tolPm = s.tolPm := rfl
@[simp] theorem State.emit_shortThrNs (s : State) (rs : List Record) : (s.emit rs).shortThrNs = s.shortThrNs := rfl
@[simp] theorem State.emit_mode (s : State) (rs : List Record) : (s.emit rs).mode = s.mode := rfl
@[simp] theorem State.emit_accOffset (s : State) (rs : List Record) : (s.emit rs).accOffset = s.accOffset := rfl
@[simp] theorem State.emit_dp (s : State) (rs : List Record) : (s.emit rs).dp = s.dp := rfl
@[simp] theorem State.emit_outq (s : State) (rs : List Record) : (s.emit rs).outq = s.outq ++ rs := rfl
@[simp] theorem State.emit_cur (s : State) (rs : List Record) : (s.emit rs).cur = s.cur := rfl
@[simp] theorem State.emit_host (s : State) (rs : List Record) : (s.emit rs).host = s.host := rfl
@[simp] theorem State.emit_serviceMode (s : State) (rs : List Record) : (s.emit rs).serviceMode = s.serviceMode := rfl
@[simp] theorem State.emit_speed14 (s : State) (rs : List Record) : (s.emit rs).speed14 = s.speed14 := rfl
@[simp] theorem State.emit_ignoreShort (s : State) (rs : List Record) : (s.emit rs).ignoreShort = s.ignoreShort := rfl

@[simp] theorem State.withDp_running (s : State) (d : Datapath) : (s.withDp d).running = s.running := rfl
@[simp] theorem State.withDp_cfgErr (s : State) (d : Datapath) : (s.withDp d).cfgErr = s.cfgErr := rfl
@[simp] theorem State.withDp_tsErr (s : State) (d : Datapath) : (s.withDp d).tsErr = s.tsErr := rfl
@[simp] theorem State.withDp_samplerate (s : State) (d : Datapath) : (s.withDp d).samplerate = s.samplerate := rfl
@[simp] theorem State.withDp_tolPm (s : State) (d : Datapath) : (s.withDp d).tolPm = s.tolPm := rfl
@[simp] theorem State.withDp_shortThrNs (s : State) (d : Datapath) : (s.withDp d).shortThrNs = s.shortThrNs := rfl
@[simp] theorem State.withDp_mode (s : State) (d : Datapath) : (s.withDp d).mode = s.mode := rfl
@[simp] theorem State.withDp_accOffset (s : State) (d : Datapath) : (s.withDp d).accOffset = s.accOffset := rfl
@[simp] theorem State.withDp_dp (s : State) (d : Datapath) : (s.withDp d).dp = d := rfl
@[simp] theorem State.withDp_outq (s : State) (d : Datapath) : (s.withDp d).outq = s.outq := rfl
@[simp] theorem State.withDp_cur (s : State) (d : Datapath) : (s.withDp d).cur = s.cur := rfl
@[simp] theorem State.withDp_host (s : State) (d : Datapath) : (s.withDp d).host = s.host := rfl
@[simp] theorem State.withDp_serviceMode (s : State) (d : Datapath) : (s.withDp d).serviceMode = s.serviceMode := rfl
@[simp] theorem State.withDp_speed14 (s : State) (d : Datapath) : (s.withDp d).speed14 = s.speed14 := rfl
@[simp] theorem State.withDp_ignoreShort (s : State) (d : Datapath) : (s.withDp d).ignoreShort = s.ignoreShort := rfl

@[simp] theorem State.withCur_running (s : State) (c : Cursor) : (s.withCur c).running = s.running := rfl
@[simp] theorem State.withCur_cfgErr (s : State) (c : Cursor) : (s.withCur c).cfgErr = s.cfgErr := rfl
@[simp] theorem State.withCur_tsErr (s : State) (c : Cursor) : (s.withCur c).tsErr = s.tsErr := rfl
@[simp] theorem State.withCur_samplerate (s : State) (c : Cursor) : (s.withCur c).samplerate = s.samplerate := rfl
@[simp] theorem State.withCur_tolPm (s : State) (c : Cursor) : (s.withCur c).tolPm = s.tolPm := rfl
@[simp] theorem State.withCur_shortThrNs (s : State) (c : Cursor) : (s.withCur c).shortThrNs = s.shortThrNs := rfl
@[simp] theorem State.withCur_mode (s : State) (c : Cursor) : (s.withCur c).mode = s.mode := rfl
@[simp] theorem State.withCur_accOffset (s : State) (c : Cursor) : (s.withCur c).accOffset = s.accOffset := rfl
@[simp] theorem State.withCur_dp (s : State) (c : Cursor) : (s.withCur c).dp = s.dp := rfl
@[simp] theorem State.withCur_outq (s : State) (c : Cursor) : (s.withCur c).outq = s.outq := rfl
@[simp] theorem State.withCur_cur (s : State) (c : Cursor) : (s.withCur c).cur = c := rfl
@[simp] theorem State.withCur_host (s : State) (c : Cursor) : (s.withCur c).host = s.host := rfl
@[simp] theorem State.withCur_serviceMode (s : State) (c : Cursor) : (s.withCur c).serviceMode = s.serviceMode := rfl
@[simp] theorem State.withCur_speed14 (s : State) (c : Cursor) : (s.withCur c).speed14 = s.speed14 := rfl
@[simp] theorem State.withCur_ignoreShort (s : State) (c : Cursor) : (s.withCur c).ignoreShort = s.ignoreShort := rfl

@[simp] theorem State.withScript_running (s : State) (l : List HostAct) : (s.withScript l).running = s.running := rfl
@[simp] theorem State.withScript_cfgErr (s : State) (l : List HostAct) : (s.withScript l).cfgErr = s.cfgErr := rfl
@[simp] theorem State.withScript_tsErr (s : State) (l : List HostAct) : (s.withScript l).tsErr = s.tsErr := rfl
@[simp] theorem State.withScript_samplerate (s : State) (l : List HostAct) : (s.withScript l).samplerate = s.samplerate := rfl
@[simp] theorem State.withScript_tolPm (s : State) (l : List HostAct) : (s.withScript l).tolPm = s.tolPm := rfl
@[simp] theorem State.withScript_shortThrNs (s : State) (l : List HostAct) : (s.withScript l).shortThrNs = s.shortThrNs := rfl
@[simp] theorem State.withScript_mode (s : State) (l : List HostAct) : (s.withScript l).mode = s.mode := rfl
@[simp] theorem State.withScript_accOffset (s : State) (l : List HostAct) : (s.withScript l).accOffset = s.accOffset := rfl
@[simp] theorem State.withScript_dp (s : State) (l : List HostAct) : (s.withScript l).dp = s.dp := rfl
@[simp] theorem State.withScript_outq (s : State) (l : List HostAct) : (s.withScript l).outq = s.outq := rfl
@[simp] theorem State.withScript_cur (s : State) (l : List HostAct) : (s.withScript l).cur = s.cur := rfl
@[simp] theorem State.withScript_host (s : State) (l : List HostAct) : (s.withScript l).host = { s.host with script := l } := rfl
@[simp] theorem State.withScript_serviceMode (s : State) (l : List HostAct) : (s.withScript l).serviceMode = s.serviceMode := rfl
@[simp] theorem State.withScript_speed14 (s : State) (l : List HostAct) : (s.withScript l).speed14 = s.speed14 := rfl
@[simp] theorem State.withScript_ignoreShort (s : State) (l : List HostAct) : (s.withScript l).ignoreShort = s.ignoreShort := rfl

@[simp] theorem State.emitFields_running (s : State) (fs : List Field) : (s.emitFields fs).running = s.running := rfl
@[simp] theorem State.emitFields_cfgErr (s : State) (fs : List Field) : (s.emitFields fs).cfgErr = s.cfgErr := rfl
@[simp] theorem State.emitFields_tsErr (s : State) (fs : List Field) : (s.emitFields fs).tsErr = s.tsErr := rfl
@[simp] theorem State.emitFields_samplerate (s : State) (fs : List Field) : (s.emitFields fs).samplerate = s.samplerate := rfl
@[simp] theorem State.emitFields_tolPm (s : State) (fs : List Field) : (s.emitFields fs).tolPm = s.tolPm := rfl
@[simp] theorem State.emitFields_shortThrNs (s : State) (fs : List Field) : (s.emitFields fs).shortThrNs = s.shortThrNs := rfl
@[simp] theorem State.emitFields_mode (s : State) (fs : List Field) : (s.emitFields fs).mode = s.mode := rfl
@[simp] theorem State.emitFields_accOffset (s : State) (fs : List Field) : (s.emitFields fs).accOffset = s.accOffset := rfl
@[simp] theorem State.emitFields_dp (s : State) (fs : List Field) : (s.emitFields fs).dp = s.dp := rfl
@[simp] theorem State.emitFields_outq (s : State) (fs : List Field) : (s.emitFields fs).outq = s.outq ++ fs.map (fieldRecord s.dp.pkt) := rfl
@[simp] theorem State.emitFields_cur (s : State) (fs : List Field) : (s.emitFields fs).cur = s.cur := rfl
@[simp] theorem State.emitFields_host (s : State) (fs : List Field) : (s.emitFields fs).host = s.host := rfl
@[simp] theorem State.emitFields_serviceMode (s : State) (fs : List Field) : (s.emitFields fs).serviceMode = s.serviceMode := rfl
@[simp] theorem State.emitFields_speed14 (s : State) (fs : List Field) : (s.emitFields fs).speed14 = s.speed14 := rfl
@[simp] theorem State.emitFields_ignoreShort (s : State) (fs : List Field) : (s.emitFields fs).ignoreShort = s.ignoreShort := rfl

/-! What reset, start and resynchronisation set. -/

@[simp] theorem softReset_running (s : State) : (softReset s).running = false := rfl
@[simp] theorem softReset_cfgErr (s : State) : (softReset s).cfgErr = false := rfl
@[simp] theorem softReset_tsErr (s : State) : (softReset s).tsErr = false := rfl
@[simp] theorem softReset_samplerate (s : State) : (softReset s).samplerate = s.samplerate := rfl
@[simp] theorem softReset_tolPm (s : State) : (softReset s).tolPm = s.tolPm := rfl
@[simp] theorem softReset_shortThrNs (s : State) : (softReset s).shortThrNs = s.shortThrNs := rfl
@[simp] theorem softReset_mode (s : State) : (softReset s).mode = s.mode := rfl
@[simp] theorem softReset_accOffset (s : State) : (softReset s).accOffset = s.accOffset := rfl
@[simp] theorem softReset_dp (s : State) : (softReset s).dp = Datapath.reset := rfl
@[simp] theorem softReset_outq (s : State) : (softReset s).outq = [] := rfl
@[simp] theorem softReset_cur (s : State) : (softReset s).cur = s.cur := rfl
@[simp] theorem softReset_host (s : State) : (softReset s).host = s.host := rfl

@[simp] theorem hardReset_running (s : State) : (hardReset s).running = false := rfl
@[simp] theorem hardReset_dp (s : State) : (hardReset s).dp = Datapath.reset := rfl
@[simp] theorem hardReset_outq (s : State) : (hardReset s).outq = [] := rfl
@[simp] theorem hardReset_cur (s : State) : (hardReset s).cur = Cursor.idle := rfl
@[simp] theorem hardReset_host (s : State) : (hardReset s).host = s.host := rfl

@[simp] theorem resync_dp (reason count : Word) (a b : Ts) (s : State) :
    (resync reason count a b s).dp = { s.dp with fsm := .wait, pkt := [], accShort := 0 } := rfl
@[simp] theorem resync_outq (reason count : Word) (a b : Ts) (s : State) :
    (resync reason count a b s).outq = s.outq ++ [mkRecord kindResync a b reason count 0] := rfl
@[simp] theorem resync_running (reason count : Word) (a b : Ts) (s : State) :
    (resync reason count a b s).running = s.running := rfl
@[simp] theorem resync_cur (reason count : Word) (a b : Ts) (s : State) :
    (resync reason count a b s).cur = s.cur := rfl
@[simp] theorem resync_host (reason count : Word) (a b : Ts) (s : State) :
    (resync reason count a b s).host = s.host := rfl

/-! Updates of one field compose. -/

@[simp] theorem State.emit_nil (s : State) : s.emit [] = s := by simp [State.emit]

theorem State.emit_emit (s : State) (a b : List Record) : (s.emit a).emit b = s.emit (a ++ b) := by
  simp [State.emit, List.append_assoc]

theorem State.emit_withDp (s : State) (a : List Record) (d : Datapath) :
    (s.emit a).withDp d = (s.withDp d).emit a := rfl

theorem State.emit_withCur (s : State) (a : List Record) (c : Cursor) :
    (s.emit a).withCur c = (s.withCur c).emit a := rfl

@[simp] theorem State.withDp_withDp (s : State) (d e : Datapath) : (s.withDp d).withDp e = s.withDp e := rfl

@[simp] theorem State.withCur_withCur (s : State) (c e : Cursor) : (s.withCur c).withCur e = s.withCur e := rfl

@[simp] theorem State.withDp_self (s : State) : s.withDp s.dp = s := rfl

@[simp] theorem State.withCur_self (s : State) : s.withCur s.cur = s := rfl

end Sys2Proof.Machine
end

