-- ==== Sys2Proof/Laws/Operands.lean ====
section
/-! SUPPORT. The operand operations: what `take`, `perByte`, `unclaimed` and `unknownFrom` answer, and that the
fields of the model are the FIELD records of the rules. -/

namespace Sys2Proof.Machine

@[simp] theorem take_nil (pos : Nat) (go : Byte → List Byte → List Field) : take pos [] go = [missingField pos] := rfl

@[simp] theorem take_cons (pos : Nat) (d : Byte) (rest : List Byte) (go : Byte → List Byte → List Field) :
    take pos (d :: rest) go = go d rest := rfl

@[simp] theorem perByte_nil (mk : Nat → Byte → Field) (pos : Nat) : perByte mk pos [] = [] := rfl

@[simp] theorem perByte_cons (mk : Nat → Byte → Field) (pos : Nat) (d : Byte) (rest : List Byte) :
    perByte mk pos (d :: rest) = mk pos d :: perByte mk (pos + 1) rest := rfl

/-- A bit field as a record argument is its number. -/
theorem arg_eq_ofNat {n : Nat} (v : BitVec n) : arg v = BitVec.ofNat 32 v.toNat := by
  apply BitVec.eq_of_toNat_eq
  simp [arg]

@[simp] theorem byteStartAt_eq (pkt : List PktByte) (k : Nat) : byteStartAt pkt k = (pkt.getD k ⟨0, 0, 0⟩).start := by
  unfold byteStartAt
  rw [List.getD_eq_getElem?_getD]
  cases pkt[k]? <;> rfl

@[simp] theorem byteEndAt_eq (pkt : List PktByte) (k : Nat) : byteEndAt pkt k = (pkt.getD k ⟨0, 0, 0⟩).stop := by
  unfold byteEndAt
  rw [List.getD_eq_getElem?_getD]
  cases pkt[k]? <;> rfl

/-- A field with given code and arguments is the record the rules write. -/
theorem fieldRecord_eq (s : State) (i j code a1 a2 a3 : Nat) :
    fieldRecord s.dp.pkt ⟨BitVec.ofNat 32 code, BitVec.ofNat 32 a1, BitVec.ofNat 32 a2, BitVec.ofNat 32 a3, i, j⟩
      = specField s i j code a1 a2 a3 := by
  simp [fieldRecord, specField, kindField]

/-- Every FIELD record is of kind FIELD. -/
@[simp] theorem fieldRecord_kind (pkt : List PktByte) (f : Field) : (fieldRecord pkt f).kind = 6 := rfl

/-- One record for each byte, in index order. -/
theorem perByte_map (mk : Nat → Byte → Field) (g : Field → Record) (pos : Nat) (bytes : List Byte) :
    (perByte mk pos bytes).map g = bytes.mapIdx fun m b => g (mk (pos + m) b) := by
  induction bytes generalizing pos with
  | nil => rfl
  | cons d rest ih => simp [ih, Nat.add_assoc, Nat.add_comm 1]

/-- `unclaimed()` is one UNCLAIMED record for each byte left (42_dispatch.md R183). -/
theorem unclaimed_records (s : State) (pos : Nat) (bytes : List Byte) :
    (unclaimed pos bytes).map (fieldRecord s.dp.pkt) = specUnclaimed s pos bytes := by
  unfold unclaimed specUnclaimed
  rw [perByte_map]
  simp [arg_eq_ofNat, fieldRecord, specField, kindField]

/-- `unknown_from()` is one UNKNOWN record for each byte from the opcode on (42_dispatch.md R184). -/
theorem unknown_records (s : State) (pos : Nat) (other : Bool) (bytes : List Byte) :
    (unknownFrom pos other bytes).map (fieldRecord s.dp.pkt) = specUnknown s pos other.toNat bytes := by
  unfold unknownFrom specUnknown
  rw [perByte_map]
  cases other <;> simp [arg_eq_ofNat, fieldRecord, specField, kindField]

/-- `BYTE_MISSING` is the record of 42_dispatch.md R182. -/
theorem missing_record (s : State) (k : Nat) : fieldRecord s.dp.pkt (missingField k) = specMissing s k := by
  simp [missingField, specMissing, fieldRecord, specField, argNat, kindField]

/-- The cursor after a header is the one the rules state (42_dispatch.md R186, R187, R189). -/
theorem headerCursor_eq (h : Header) : headerCursor h = specCursor h := by
  cases h with
  | bare => rfl
  | broadcast => rfl
  | mf7 a => exact congrArg (Cursor.mk 1 .mf7) (BitVec.eq_of_toNat_eq (by simp))
  | mf14 hi lo =>
    have hh := hi.isLt
    have hl := lo.isLt
    refine congrArg (Cursor.mk 2 .mf14) (BitVec.eq_of_toNat_eq ?_)
    rw [BitVec.toNat_append, ← Nat.shiftLeft_add_eq_or_of_lt hl, Nat.shiftLeft_eq, BitVec.toNat_ofNat]
    omega
  | reserved a => rfl
  | idleSystem => rfl
  | accPom lo hi c ddd => rfl
  | accExtPom lo hi port => rfl

end Sys2Proof.Machine
end

