-- ==== Sys2Proof/Laws/Exec.lean ====
section
/-! SUPPORT. What running an instruction can do: it appends FIELD records and nothing else. -/

namespace Sys2Proof.Machine

/-- An instruction completes in every state, and all it does is append FIELD records. -/
theorem exec_emits (i : Instr) (s : State) : ∃ fs : List Field, exec i s = .next (s.emitFields fs) := by
  cases i <;> exact ⟨_, rfl⟩

/-- So does what the decoder answers for a content that holds no instruction. -/
theorem runBody_emits (b : Body) (content : List Byte) (s : State) :
    ∃ fs : List Field, runBody b content s = .next (s.emitFields fs) := by
  cases b with
  | instr i => exact exec_emits i s
  | reject r => exact ⟨_, rfl⟩

end Sys2Proof.Machine
end

