-- ==== Sys2Proof/Laws/Ops.lean ====
section
/-! SUPPORT. The sequencing operation and the saturating sum, and what a start does. -/

namespace Sys2Proof.Machine

@[simp] theorem andThen_next (s : State) (f : State → Out) : andThen (.next s) f = f s := rfl

@[simp] theorem andThen_fault (r : Fault) (f : State → Out) : andThen (.fault r) f = .fault r := rfl

@[simp] theorem andThen_refused (r : Refusal) (f : State → Out) : andThen (.refused r) f = .refused r := rfl

/-- A sequence answers a next state only through one of its first part. -/
theorem andThen_eq_next {o : Out} {f : State → Out} {t : State} (h : andThen o f = .next t) :
    ∃ s, o = .next s ∧ f s = .next t := by
  cases o with
  | next s => exact ⟨s, rfl, h⟩
  | fault r => cases h
  | refused r => cases h

theorem sat_toNat (n v : Nat) : (sat n v).toNat = min v (2 ^ n - 1) := by
  have : 0 < 2 ^ n := Nat.two_pow_pos n
  simp only [sat, BitVec.toNat_ofNat]
  exact Nat.mod_eq_of_lt (by omega)

/-- Everything a START while stopped can do (10_state.md R31). -/
theorem start_cases (s : State) :
    (startRefused s = true ∧ start s = { s with cfgErr := true }) ∨
    (startRefused s = false ∧
      start s = { s with running := true, cfgErr := false, tsErr := false, dp := Datapath.reset, outq := [] }) := by
  unfold start
  cases h : startRefused s <;> simp

/-- The start check, as numbers. -/
theorem startRefused_eq_true (s : State) :
    startRefused s = true ↔ s.samplerate.toNat < 25000 ∨ 500 < s.tolPm.toNat := by
  unfold startRefused
  rw [Bool.or_eq_true, decide_eq_true_eq, decide_eq_true_eq]
  rfl

end Sys2Proof.Machine
end

