-- ==== Sys2Proof/Laws/Framer.lean ====
section
/-! SUPPORT. What the framer and the packet's finalisation can do: they never stop the machine. -/

namespace Sys2Proof.Machine

/-- The decoder engine appends records and leaves the cursor idle; nothing else changes (42_dispatch.md R203). -/
theorem decodeAndRun_emits (s : State) :
    ∃ fs : List Field, decodeAndRun s = .next ((s.emitFields fs).withCur Cursor.idle) := by
  unfold decodeAndRun
  dsimp only
  generalize decodePacket s.serviceMode (contentBytes s.dp.pkt) = p
  obtain ⟨fs, h⟩ := runBody_emits p.body (contentBytes s.dp.pkt)
    ((s.emitFields (headerFields p.header s.accOffset)).withCur (headerCursor p.header))
  refine ⟨headerFields p.header s.accOffset ++ fs, ?_⟩
  rw [h]
  simp [State.emitFields, State.emit, State.withCur]

/-- Finalisation appends records and leaves the cursor idle (41_framer.md R155). -/
theorem finalise_emits (m1 m3 : Ts) (s : State) :
    ∃ rs : List Record, finalise m1 m3 s = .next ((s.emit rs).withCur Cursor.idle) := by
  unfold finalise
  obtain ⟨fs, h⟩ := decodeAndRun_emits (s.emit (byteRecords 0 s.dp.pkt))
  rw [h]
  exact ⟨_, by simp only [andThen_next, State.emitFields, State.emit, State.withCur, List.append_assoc]; rfl⟩

/-- The framer answers a next state for every window. -/
theorem framer_next (c : WindowClass) (stretched : Bool) (t1 t3 : Ts) (s : State) :
    ∃ s', framer c stretched t1 t3 s = .next s' := by
  have hbit : ∀ (bit : Bool) (u : State), ∃ s', frameBit bit t1 t3 u = .next s' := by
    intro bit u
    unfold frameBit
    split
    · exact ⟨_, rfl⟩
    · exact ⟨_, rfl⟩
    · unfold bitInData
      split
      · exact ⟨_, rfl⟩
      · unfold markerBit
        split
        · exact ⟨_, rfl⟩
        · split
          · obtain ⟨rs, h⟩ := finalise_emits t1 t3 (u.withDp { u.dp with pkt := pktWithByte u.dp })
            rw [h]
            exact ⟨_, rfl⟩
          · exact ⟨_, rfl⟩
  unfold framer
  cases c with
  | one => exact hbit _ _
  | zero => exact hbit _ _
  | straddle => exact ⟨_, rfl⟩
  | railcom => exact ⟨_, rfl⟩
  | unknown => exact ⟨_, rfl⟩

end Sys2Proof.Machine
end

