-- ==== Sys2Proof/Laws/Legal.lean ====
section
/-! SUPPORT. The fields a meaning, a header and a rejection emit carry arguments their codes admit (30_encoding.md
R98). -/

namespace Sys2Proof.Machine

/-- A field whose arguments its code admits. -/
def Field.legal (f : Field) : Prop := fieldLegal f.code.toNat f.a1.toNat f.a2.toNat f.a3.toNat

/-- All of a list of fields are such. -/
def allLegal (fs : List Field) : Prop := ∀ f ∈ fs, f.legal

theorem fieldRecord_legal (pkt : List PktByte) {f : Field} (h : f.legal) : (fieldRecord pkt f).legal := h

theorem allLegal_nil : allLegal [] := by intro f h; cases h

theorem allLegal_cons {f : Field} {fs : List Field} (hf : f.legal) (hs : allLegal fs) : allLegal (f :: fs) := by
  intro g hg
  cases hg with
  | head => exact hf
  | tail _ hg => exact hs g hg

theorem allLegal_append {fs gs : List Field} (hf : allLegal fs) (hg : allLegal gs) : allLegal (fs ++ gs) := by
  intro f h
  rcases List.mem_append.mp h with h | h
  · exact hf f h
  · exact hg f h

/-! ### Operand operations -/

theorem perByte_legal {mk : Nat → Byte → Field} (h : ∀ k d, (mk k d).legal) (pos : Nat) (ops : List Byte) :
    allLegal (perByte mk pos ops) := by
  induction ops generalizing pos with
  | nil => exact allLegal_nil
  | cons d rest ih => exact allLegal_cons (h pos d) (ih (pos + 1))

theorem byte_le (d : Byte) : (arg d).toNat ≤ 255 := by
  have := d.isLt
  simp [arg]; omega

/-- A field of `n` bits as an argument is below `2 ^ n`. -/
theorem arg_le {n m : Nat} (v : BitVec n) (hm : 2 ^ n ≤ m + 1) : (arg v).toNat ≤ m := by
  have hv := v.isLt
  have : (arg v).toNat ≤ v.toNat := by simpa [arg] using Nat.mod_le _ _
  omega

theorem unclaimed_legal (pos : Nat) (ops : List Byte) : allLegal (unclaimed pos ops) :=
  perByte_legal (mk := fun k d => ⟨0x04, arg d, 0, 0, k, k⟩) (fun _ d => ⟨byte_le d, rfl, rfl⟩) pos ops

theorem unknownFrom_legal (pos : Nat) (other : Bool) (bytes : List Byte) : allLegal (unknownFrom pos other bytes) :=
  perByte_legal (mk := fun k d => ⟨0x05, arg d, if other then 1 else 0, 0, k, k⟩)
    (fun _ d => ⟨byte_le d, by cases other <;> exact Nat.le_of_ble_eq_true rfl, rfl⟩) pos bytes

theorem missing_legal {pos : Nat} (h1 : 1 ≤ pos) (h15 : pos ≤ 15) : (missingField pos).legal := by
  have h : (argNat pos).toNat = pos := by simp [argNat]; omega
  exact ⟨by simpa [missingField, h] using h1, by simpa [missingField, h] using h15, rfl, rfl⟩

theorem take_legal {pos : Nat} {ops : List Byte} {go : Byte → List Byte → List Field} (h1 : 1 ≤ pos) (h15 : pos ≤ 15)
    (h : ∀ d rest, allLegal (go d rest)) : allLegal (take pos ops go) := by
  cases ops with
  | nil => exact allLegal_cons (missing_legal h1 h15) allLegal_nil
  | cons d rest => exact h d rest

/-! ### Fields that several rules emit -/

/-- An instruction id of 30_encoding.md R100. -/
theorem instr_legal (i : Nat) {id : Word}
    (h : (1 ≤ id.toNat ∧ id.toNat ≤ 0x1C) ∨ (0x20 ≤ id.toNat ∧ id.toNat ≤ 0x2A) ∨ (0x30 ≤ id.toNat ∧ id.toNat ≤ 0x34) ∨
      (0x38 ≤ id.toNat ∧ id.toNat ≤ 0x3A) ∨ id.toNat = 0x3C ∨ id.toNat = 0x3D) : (instrField i id).legal := ⟨h, rfl, rfl⟩

/-- A number of at most 24 bits and one is that number in 32 bits. -/
theorem arg_succ_toNat {n : Nat} (v : BitVec n) (hn : n ≤ 24) : (arg v + 1).toNat = v.toNat + 1 := by
  have hv := v.isLt
  have : 2 ^ n ≤ 2 ^ 24 := Nat.pow_le_pow_right (by decide) hn
  have h1 : (1 : Word).toNat = 1 := rfl
  simp only [arg, BitVec.toNat_add, BitVec.toNat_setWidth, h1]
  omega

theorem flagField_legal (i : Nat) (f : BitVec 1) : (flagField i f).legal := by
  refine ⟨?_, rfl, rfl⟩
  have := f.isLt
  simp [flagField, arg]; omega

theorem cvDataField_legal (i : Nat) (d : Byte) : (cvDataField i d).legal := ⟨byte_le d, rfl, rfl⟩

theorem bitOpField_legal (i : Nat) (d : Byte) : (bitOpField i d).legal := by
  refine ⟨?_, ?_, ?_⟩ <;> simp [bitOpField, arg] <;> omega

theorem cvAddrField_legal (i : Nat) (hi : BitVec 2) (v : Byte) {operation : Word} (h1 : 1 ≤ operation.toNat)
    (h3 : operation.toNat ≤ 3) : (cvAddrField i (cvNumber10 hi v) operation).legal := by
  have := (hi ++ v).isLt
  have hn : (cvNumber10 hi v).toNat = (hi ++ v).toNat + 1 := arg_succ_toNat _ (by decide)
  refine ⟨?_, ?_, h1, h3, rfl⟩ <;> simp only [cvAddrField, hn] <;> omega

/-! ### Meanings -/

theorem plainFields_legal (i : Nat) {id : Word} (h : (instrField i id).legal) (ops : List Byte) :
    allLegal (plainFields i id ops) := allLegal_cons h (unclaimed_legal _ _)

theorem flagFields_legal (i : Nat) {id : Word} (h : (instrField i id).legal) (f : BitVec 1) (ops : List Byte) :
    allLegal (flagFields i id f ops) := allLegal_cons h (allLegal_cons (flagField_legal _ _) (unclaimed_legal _ _))

theorem consistFields_legal {i : Nat} (hi : i ≤ 2) {id dir : Word} (h : (instrField i id).legal) (hd : dir.toNat ≤ 1)
    (ops : List Byte) : allLegal (consistFields i id dir ops) :=
  allLegal_cons h (take_legal (by omega) (by omega) fun d _ =>
    allLegal_cons ⟨by simp [arg]; omega, hd, rfl⟩ (unclaimed_legal _ _))

theorem speed128_legal (i : Nat) (d : BitVec 1) (s : BitVec 7) : (speedField i (arg d) (speed128Kind s)).legal := by
  have hd := d.isLt
  have hs := s.isLt
  refine ⟨by simp [speedField, arg]; omega, ?_⟩
  unfold speedField speed128Kind
  split_ifs with h0 h1
  · right; exact ⟨Nat.le_of_ble_eq_true rfl, Nat.le_of_ble_eq_true rfl, rfl⟩
  · right; exact ⟨Nat.le_of_ble_eq_true rfl, Nat.le_of_ble_eq_true rfl, rfl⟩
  · left
    have h0' : s.toNat ≠ 0 := fun h => h0 (BitVec.eq_of_toNat_eq h)
    have h1' : s.toNat ≠ 1 := fun h => h1 (BitVec.eq_of_toNat_eq h)
    refine ⟨rfl, ?_, ?_⟩ <;> simp [arg, BitVec.toNat_sub] <;> omega

theorem speed28_legal (i : Nat) {dir : Word} (hd : dir.toNat ≤ 1) (v : BitVec 5) :
    (speedField i dir (speed28Kind v)).legal := by
  have hv := v.isLt
  refine ⟨hd, ?_⟩
  unfold speedField speed28Kind
  split_ifs with h0 h1 h2 h3
  · right; exact ⟨Nat.le_of_ble_eq_true rfl, Nat.le_of_ble_eq_true rfl, rfl⟩
  · right; exact ⟨Nat.le_of_ble_eq_true rfl, Nat.le_of_ble_eq_true rfl, rfl⟩
  · right; exact ⟨Nat.le_of_ble_eq_true rfl, Nat.le_of_ble_eq_true rfl, rfl⟩
  · right; exact ⟨Nat.le_of_ble_eq_true rfl, Nat.le_of_ble_eq_true rfl, rfl⟩
  · left
    have h0' : v.toNat ≠ 0 := fun h => h0 (BitVec.eq_of_toNat_eq h)
    have h1' : v.toNat ≠ 1 := fun h => h1 (BitVec.eq_of_toNat_eq h)
    have h2' : v.toNat ≠ 2 := fun h => h2 (BitVec.eq_of_toNat_eq h)
    have h3' : v.toNat ≠ 3 := fun h => h3 (BitVec.eq_of_toNat_eq h)
    refine ⟨rfl, ?_, ?_⟩ <;> simp [arg, BitVec.toNat_sub] <;> omega

theorem speed14_legal (i : Nat) {dir : Word} (hd : dir.toNat ≤ 1) (v : BitVec 4) :
    (speedField i dir (speed14Kind v)).legal := by
  have hv := v.isLt
  refine ⟨hd, ?_⟩
  unfold speedField speed14Kind
  split_ifs with h0 h1
  · right; exact ⟨Nat.le_of_ble_eq_true rfl, Nat.le_of_ble_eq_true rfl, rfl⟩
  · right; exact ⟨Nat.le_of_ble_eq_true rfl, Nat.le_of_ble_eq_true rfl, rfl⟩
  · left
    have h0' : v.toNat ≠ 0 := fun h => h0 (BitVec.eq_of_toNat_eq h)
    have h1' : v.toNat ≠ 1 := fun h => h1 (BitVec.eq_of_toNat_eq h)
    refine ⟨rfl, ?_, ?_⟩ <;> simp [arg, BitVec.toNat_sub] <;> omega

/-- A function state word of `n` functions from `first`. -/
theorem funcsField_legal (i : Nat) {first count : Word} {n : Nat} (v : BitVec n) (hn : n ≤ 8)
    (hm : (first.toNat, count.toNat) ∈ [(0, 1), (0, 5), (1, 4), (5, 4), (9, 4), (13, 8), (21, 8), (29, 8), (37, 8),
      (45, 8), (53, 8), (61, 8)]) (hc : count.toNat = n) : (funcsField i first count (arg v)).legal := by
  refine ⟨hm, ?_⟩
  have hv := v.isLt
  have h8 : 2 ^ n ≤ 2 ^ 8 := Nat.pow_le_pow_right (by decide) hn
  have : (arg v).toNat = v.toNat := by
    simp only [arg, BitVec.toNat_setWidth]
    exact Nat.mod_eq_of_lt (by omega)
  simpa only [funcsField, this, hc] using hv

theorem speedFields_legal (i : Nat) {id dir : Word} (h : (instrField i id).legal) (hd : dir.toNat ≤ 1) (speed14 : Bool)
    (c : BitVec 1) (speed : BitVec 4) (ops : List Byte) : allLegal (speedFields i id dir speed14 c speed ops) := by
  refine allLegal_append (allLegal_cons h ?_) (unclaimed_legal _ _)
  cases speed14 with
  | true =>
    exact allLegal_cons (speed14_legal _ hd _)
      (allLegal_cons (funcsField_legal i c (by decide) (by decide) rfl) allLegal_nil)
  | false => exact allLegal_cons (speed28_legal _ hd _) allLegal_nil

theorem functionByteFields_legal {i : Nat} (hi : i ≤ 2) {id first : Word} (h : (instrField i id).legal)
    (hf : first.toNat ∈ [13, 21, 29, 37, 45, 53, 61]) (ops : List Byte) : allLegal (functionByteFields i id first ops) :=
  allLegal_cons h (take_legal (by omega) (by omega) fun d _ =>
    allLegal_cons (funcsField_legal _ d (by decide)
        (by simp only [List.mem_cons, List.not_mem_nil, or_false] at hf ⊢; simp; omega) rfl)
      (unclaimed_legal _ _))

theorem notBroadcast_legal (i : Nat) {c : Cursor} (h : c.addr.toNat ≤ 10239) : allLegal (notBroadcast i c) := by
  unfold notBroadcast
  split
  · exact allLegal_nil
  · exact allLegal_cons ⟨by simp [arg]; omega, rfl, rfl⟩ allLegal_nil

theorem timeFields_legal {i : Nat} (hi : i ≤ 2) {id : Word} (h : (instrField i id).legal) {c : Cursor}
    (hc : c.addr.toNat ≤ 10239) (ops : List Byte) {go : Byte → Byte → List Field} (hg : ∀ b2 b3, allLegal (go b2 b3)) :
    allLegal (timeFields i id c ops go) :=
  allLegal_append (allLegal_cons h (notBroadcast_legal i hc)) (take_legal (by omega) (by omega) fun b2 _ =>
    take_legal (by omega) (by omega) fun b3 _ => allLegal_append (hg b2 b3) (unclaimed_legal _ _))

theorem pomFields_legal {i : Nat} (hi : i ≤ 2) {id operation : Word} (h : (instrField i id).legal)
    (h1 : 1 ≤ operation.toNat) (h3 : operation.toNat ≤ 3) {data : Nat → Byte → Field} (hd : ∀ k d, (data k d).legal)
    (v : BitVec 2) (ops : List Byte) : allLegal (pomFields i id operation data v ops) :=
  allLegal_cons h (take_legal (by omega) (by omega) fun _ _ => allLegal_cons (cvAddrField_legal _ _ _ h1 h3)
    (take_legal (by omega) (by omega) fun _ _ => allLegal_cons (hd _ _) (unclaimed_legal _ _)))

theorem directFields_legal {id operation : Word} (h : (instrField 0 id).legal) (h1 : 1 ≤ operation.toNat)
    (h3 : operation.toNat ≤ 3) {data : Nat → Byte → Field} (hd : ∀ k d, (data k d).legal) (a : BitVec 2)
    (ops : List Byte) : allLegal (directFields id operation data a ops) :=
  allLegal_cons h (take_legal (by omega) (by omega) fun _ _ => allLegal_cons (cvAddrField_legal _ _ _ h1 h3)
    (take_legal (by omega) (by omega) fun _ _ => allLegal_cons (hd _ _) (unclaimed_legal _ _)))

theorem registerFields_legal {id operation : Word} (h : (instrField 0 id).legal) (ho : operation.toNat ≤ 1)
    (r : BitVec 3) (ops : List Byte) : allLegal (registerFields id operation r ops) := by
  refine allLegal_cons h (take_legal (by omega) (by omega) fun d _ => allLegal_cons ?_ (unclaimed_legal _ _))
  have hr := r.isLt
  refine ⟨ho, ?_, ?_, byte_le d⟩ <;> simp [arg] <;> omega

theorem xpomFields_legal {i : Nat} (hi : i ≤ 2) {id operation : Word} (h : (instrField i id).legal)
    (h1 : 1 ≤ operation.toNat) (h3 : operation.toNat ≤ 3) (ss : BitVec 2) (ops : List Byte)
    {go : List Byte → List Field} (hg : ∀ rest, allLegal (go rest)) : allLegal (xpomFields i id operation ss ops go) := by
  refine allLegal_cons h (take_legal (by omega) (by omega) fun v2 _ => take_legal (by omega) (by omega) fun v1 _ =>
    take_legal (by omega) (by omega) fun v0 rest => allLegal_cons ?_ (hg rest))
  have hs := ss.isLt
  have hv := (v2 ++ v1 ++ v0).isLt
  have hn : (cvNumber24 v2 v1 v0).toNat = (v2 ++ v1 ++ v0).toNat + 1 := arg_succ_toNat _ (by decide)
  refine ⟨h1, h3, by simp [arg]; omega, ?_, ?_⟩ <;> simp only [hn] <;> omega

theorem moreCvData_legal (count pos : Nat) (ops : List Byte) : allLegal (moreCvData count pos ops) := by
  induction count generalizing pos ops with
  | zero =>
    cases ops with
    | nil => exact allLegal_nil
    | cons d rest => exact unclaimed_legal _ _
  | succ n ih =>
    cases ops with
    | nil => exact allLegal_nil
    | cons d rest => exact allLegal_cons (cvDataField_legal _ _) (ih _ _)

theorem oneCvFields_legal {i : Nat} (hi : i ≤ 2) {id cv : Word} (h : (instrField i id).legal)
    (hc : (cvAddrField i cv opWrite).legal) (ops : List Byte) : allLegal (oneCvFields i id cv ops) :=
  allLegal_cons h (allLegal_cons hc (take_legal (by omega) (by omega) fun _ _ =>
    allLegal_cons (cvDataField_legal _ _) (unclaimed_legal _ _)))

theorem twoCvFields_legal {i : Nat} (hi : i ≤ 2) {id cv1 cv2 : Word} (h : (instrField i id).legal)
    (h1 : (cvAddrField i cv1 opWrite).legal) (h2 : (cvAddrField i cv2 opWrite).legal) (ops : List Byte) :
    allLegal (twoCvFields i id cv1 cv2 ops) :=
  allLegal_cons h (allLegal_cons h1 (take_legal (by omega) (by omega) fun _ _ =>
    allLegal_cons (cvDataField_legal _ _) (allLegal_cons h2 (take_legal (by omega) (by omega) fun _ _ =>
      allLegal_cons (cvDataField_legal _ _) (unclaimed_legal _ _)))))

/-- The user address stays in its range (42_dispatch.md R201). -/
theorem accUser_range (raw : BitVec 11) (offset : BitVec 16) : userAddress (accUser raw offset).toNat := by
  have hr := raw.isLt
  have ho := offset.isLt
  unfold userAddress accUser
  have h3 : (3 : Word).toNat = 3 := rfl
  rw [BitVec.signExtend]
  simp only [h3, arg, BitVec.toNat_add, BitVec.toNat_sub, BitVec.toNat_setWidth, BitVec.toNat_ofInt,
    BitVec.toInt_eq_toNat_cond]
  split <;> omega

theorem accExtAddr_legal (lo : BitVec 6) (hi : BitVec 3) (port : BitVec 2) (offset : BitVec 16) :
    (accExtAddrField lo hi port offset).legal := by
  have h := (accRaw lo hi port).isLt
  exact ⟨by simp [accExtAddrField, arg]; omega, accUser_range _ _, rfl⟩

/-- Every instruction emits legal fields when its first byte is one of a packet's first three and the address is one a
header gives. -/
theorem exec_legal (i : Instr) {s : State} (hp : s.cur.pos ≤ 2) (ha : s.cur.addr.toNat ≤ 10239) :
    ∃ fs : List Field, exec i s = .next (s.emitFields fs) ∧ allLegal fs := by
  have hcv : ∀ (k : Nat) {cv : Word}, 1 ≤ cv.toNat → cv.toNat ≤ 1024 → (cvAddrField k cv opWrite).legal :=
    fun _ _ h1 h2 => ⟨h1, h2, Nat.le_of_ble_eq_true rfl, Nat.le_of_ble_eq_true rfl, rfl⟩
  cases i with
  | reset ops => exact ⟨_, rfl, plainFields_legal _ (instr_legal _ (by decide)) _⟩
  | hardReset ops => exact ⟨_, rfl, plainFields_legal _ (instr_legal _ (by decide)) _⟩
  | factoryTest f ops => exact ⟨_, rfl, flagFields_legal _ (instr_legal _ (by decide)) _ _⟩
  | setDecoderFlags f ops =>
    exact ⟨_, rfl, allLegal_cons (instr_legal _ (by decide)) (allLegal_cons (flagField_legal _ _)
      (take_legal (by omega) (by omega) fun d _ => allLegal_cons ⟨byte_le d, rfl, rfl⟩ (unclaimed_legal _ _)))⟩
  | setAdvAddr f ops => exact ⟨_, rfl, flagFields_legal _ (instr_legal _ (by decide)) _ _⟩
  | ackRequest f ops => exact ⟨_, rfl, flagFields_legal _ (instr_legal _ (by decide)) _ _⟩
  | consistNormal ops => exact ⟨_, rfl, consistFields_legal hp (instr_legal _ (by decide)) (by decide) _⟩
  | consistReverse ops => exact ⟨_, rfl, consistFields_legal hp (instr_legal _ (by decide)) (by decide) _⟩
  | speed128 ops =>
    exact ⟨_, rfl, allLegal_cons (instr_legal _ (by decide)) (take_legal (by omega) (by omega) fun d _ =>
      allLegal_cons (speed128_legal _ _ _) (unclaimed_legal _ _))⟩
  | restrictedSpeed ops =>
    exact ⟨_, rfl, allLegal_cons (instr_legal _ (by decide)) (take_legal (by omega) (by omega) fun d _ =>
      allLegal_cons ⟨arg_le _ (by decide), arg_le _ (by decide), rfl⟩ (unclaimed_legal _ _))⟩
  | analogFunction ops =>
    exact ⟨_, rfl, allLegal_cons (instr_legal _ (by decide)) (take_legal (by omega) (by omega) fun v _ =>
      take_legal (by omega) (by omega) fun d _ => allLegal_cons ⟨byte_le v, byte_le d, rfl⟩ (unclaimed_legal _ _))⟩
  | speedRev c speed ops => exact ⟨_, rfl, speedFields_legal _ (instr_legal _ (by decide)) (by decide) _ _ _ _⟩
  | speedFwd c speed ops => exact ⟨_, rfl, speedFields_legal _ (instr_legal _ (by decide)) (by decide) _ _ _ _⟩
  | fg1 f0 f ops =>
    refine ⟨_, rfl, allLegal_append (allLegal_cons (instr_legal _ (by decide)) ?_) (unclaimed_legal _ _)⟩
    cases s.speed14 with
    | true =>
      exact allLegal_cons (funcsField_legal _ f (by decide) (by decide) rfl)
        (allLegal_cons ⟨rfl, arg_le _ (by decide), rfl⟩ allLegal_nil)
    | false => exact allLegal_cons (funcsField_legal _ (f ++ f0) (by decide) (by decide) rfl) allLegal_nil
  | fg2F5F8 f ops =>
    exact ⟨_, rfl, allLegal_cons (instr_legal _ (by decide)) (allLegal_cons
      (funcsField_legal _ f (by decide) (by decide) rfl) (unclaimed_legal _ _))⟩
  | fg2F9F12 f ops =>
    exact ⟨_, rfl, allLegal_cons (instr_legal _ (by decide)) (allLegal_cons
      (funcsField_legal _ f (by decide) (by decide) rfl) (unclaimed_legal _ _))⟩
  | binstateLong ops =>
    exact ⟨_, rfl, allLegal_cons (instr_legal _ (by decide)) (take_legal (by omega) (by omega) fun lo _ =>
      take_legal (by omega) (by omega) fun hi _ =>
        allLegal_cons ⟨arg_le _ (by decide), arg_le _ (by decide), rfl⟩ (unclaimed_legal _ _))⟩
  | modelTime minute ops =>
    exact ⟨_, rfl, timeFields_legal hp (instr_legal _ (by decide)) ha _ fun b2 b3 =>
      allLegal_cons ⟨arg_le _ (by decide), arg_le _ (by decide), rfl⟩
        (allLegal_cons ⟨arg_le _ (by decide), rfl, rfl⟩
          (allLegal_cons ⟨arg_le _ (by decide), arg_le _ (by decide), rfl⟩ allLegal_nil))⟩
  | modelDate low ops =>
    exact ⟨_, rfl, timeFields_legal hp (instr_legal _ (by decide)) ha _ fun b2 b3 =>
      allLegal_cons ⟨arg_le _ (by decide), arg_le _ (by decide), rfl⟩
        (allLegal_cons ⟨arg_le _ (by decide), rfl, rfl⟩ allLegal_nil)⟩
  | systemTime low ops =>
    exact ⟨_, rfl, timeFields_legal hp (instr_legal _ (by decide)) ha _ fun b2 b3 =>
      allLegal_cons ⟨arg_le _ (by decide), rfl, rfl⟩ allLegal_nil⟩
  | f29F36 ops => exact ⟨_, rfl, functionByteFields_legal hp (instr_legal _ (by decide)) (by decide) _⟩
  | f37F44 ops => exact ⟨_, rfl, functionByteFields_legal hp (instr_legal _ (by decide)) (by decide) _⟩
  | f45F52 ops => exact ⟨_, rfl, functionByteFields_legal hp (instr_legal _ (by decide)) (by decide) _⟩
  | f53F60 ops => exact ⟨_, rfl, functionByteFields_legal hp (instr_legal _ (by decide)) (by decide) _⟩
  | f61F68 ops => exact ⟨_, rfl, functionByteFields_legal hp (instr_legal _ (by decide)) (by decide) _⟩
  | binstateShort ops =>
    exact ⟨_, rfl, allLegal_cons (instr_legal _ (by decide)) (take_legal (by omega) (by omega) fun d _ =>
      allLegal_cons ⟨arg_le _ (by decide), arg_le _ (by decide), rfl⟩ (unclaimed_legal _ _))⟩
  | f13F20 ops => exact ⟨_, rfl, functionByteFields_legal hp (instr_legal _ (by decide)) (by decide) _⟩
  | f21F28 ops => exact ⟨_, rfl, functionByteFields_legal hp (instr_legal _ (by decide)) (by decide) _⟩
  | pomVerify v ops =>
    exact ⟨_, rfl, pomFields_legal hp (instr_legal _ (by decide)) (by decide) (by decide) cvDataField_legal _ _⟩
  | pomBit v ops =>
    exact ⟨_, rfl, pomFields_legal hp (instr_legal _ (by decide)) (by decide) (by decide) bitOpField_legal _ _⟩
  | pomWrite v ops =>
    exact ⟨_, rfl, pomFields_legal hp (instr_legal _ (by decide)) (by decide) (by decide) cvDataField_legal _ _⟩
  | xpomRead ss ops =>
    exact ⟨_, rfl, xpomFields_legal hp (instr_legal _ (by decide)) (by decide) (by decide) _ _ fun _ =>
      unclaimed_legal _ _⟩
  | xpomBit ss ops =>
    exact ⟨_, rfl, xpomFields_legal hp (instr_legal _ (by decide)) (by decide) (by decide) _ _ fun _ =>
      take_legal (by omega) (by omega) fun _ _ => allLegal_cons (bitOpField_legal _ _) (unclaimed_legal _ _)⟩
  | xpomWrite ss ops =>
    exact ⟨_, rfl, xpomFields_legal hp (instr_legal _ (by decide)) (by decide) (by decide) _ _ fun _ =>
      take_legal (by omega) (by omega) fun _ _ => allLegal_cons (cvDataField_legal _ _) (moreCvData_legal _ _ _)⟩
  | cvAccel ops =>
    exact ⟨_, rfl, oneCvFields_legal hp (instr_legal _ (by decide)) (hcv _ (by decide) (by decide)) _⟩
  | cvDecel ops =>
    exact ⟨_, rfl, oneCvFields_legal hp (instr_legal _ (by decide)) (hcv _ (by decide) (by decide)) _⟩
  | cvLongaddr ops =>
    exact ⟨_, rfl, twoCvFields_legal hp (instr_legal _ (by decide)) (hcv _ (by decide) (by decide))
      (hcv _ (by decide) (by decide)) _⟩
  | cvIndex ops =>
    exact ⟨_, rfl, twoCvFields_legal hp (instr_legal _ (by decide)) (hcv _ (by decide) (by decide))
      (hcv _ (by decide) (by decide)) _⟩
  | decoderLock ops =>
    exact ⟨_, rfl, allLegal_cons (instr_legal _ (by decide)) (take_legal (by omega) (by omega) fun d _ =>
      allLegal_cons ⟨arg_le _ (by decide), rfl, rfl⟩ (unclaimed_legal _ _))⟩
  | smDirectVerify a ops =>
    exact ⟨_, rfl, directFields_legal (instr_legal _ (by decide)) (by decide) (by decide) cvDataField_legal _ _⟩
  | smDirectBit a ops =>
    exact ⟨_, rfl, directFields_legal (instr_legal _ (by decide)) (by decide) (by decide) bitOpField_legal _ _⟩
  | smDirectWrite a ops =>
    exact ⟨_, rfl, directFields_legal (instr_legal _ (by decide)) (by decide) (by decide) cvDataField_legal _ _⟩
  | smRegVerify r ops => exact ⟨_, rfl, registerFields_legal (instr_legal _ (by decide)) (by decide) _ _⟩
  | smRegWrite r ops => exact ⟨_, rfl, registerFields_legal (instr_legal _ (by decide)) (by decide) _ _⟩
  | accBasic lo hi d port r ops =>
    exact ⟨_, rfl, allLegal_cons ⟨arg_le _ (by decide), arg_le _ (by decide), accUser_range _ _⟩
      (allLegal_cons (instr_legal _ (by decide)) (allLegal_cons
        ⟨arg_le _ (by decide), arg_le _ (by decide), rfl⟩ (unclaimed_legal _ _)))⟩
  | accExt lo hi port ops =>
    exact ⟨_, rfl, allLegal_cons (accExtAddr_legal _ _ _ _) (allLegal_cons (instr_legal _ (by decide))
      (take_legal (by decide) (by decide) fun d _ => allLegal_cons ⟨byte_le d, rfl, rfl⟩ (unclaimed_legal _ _)))⟩
  | accNop lo hi port t ops =>
    exact ⟨_, rfl, allLegal_cons (accExtAddr_legal _ _ _ _) (allLegal_cons (instr_legal _ (by decide))
      (allLegal_cons ⟨arg_le _ (by decide), rfl, rfl⟩ (unclaimed_legal _ _)))⟩
  | idle ops =>
    exact ⟨_, rfl, allLegal_cons ⟨rfl, .inr (.inr (.inr (.inr ⟨rfl, rfl⟩)))⟩
      (allLegal_cons (instr_legal _ (by decide)) (unclaimed_legal _ _))⟩
  | sysCmd n ops =>
    exact ⟨_, rfl, allLegal_cons ⟨rfl, .inr (.inr (.inr (.inr ⟨rfl, rfl⟩)))⟩ (allLegal_cons (instr_legal _ (by decide))
      (allLegal_cons ⟨byte_le n, rfl, rfl⟩
        (perByte_legal (mk := fun k d => ⟨0x39, arg d, 0, 0, k, k⟩) (fun _ d => ⟨byte_le d, rfl, rfl⟩) _ _)))⟩

end Sys2Proof.Machine
end

