-- ==== Sys2Proof/Laws/PerInstr.lean ====
section
/-! SUPPORT. Every instruction's encoding carries the fixed bits of its own row of opcode_table.json. -/

namespace Sys2Proof.Laws.TableRow

/-- Mask and match of each matched byte of the row. -/
def row : Instr → List (Byte × Byte)
  | .reset _ => [(0xFF#8, 0x00#8)]
  | .hardReset _ => [(0xFF#8, 0x01#8)]
  | .factoryTest _ _ => [(0xFE#8, 0x02#8)]
  | .setDecoderFlags _ _ => [(0xFE#8, 0x06#8)]
  | .setAdvAddr _ _ => [(0xFE#8, 0x0A#8)]
  | .ackRequest _ _ => [(0xFE#8, 0x0E#8)]
  | .consistNormal _ => [(0xFF#8, 0x12#8)]
  | .consistReverse _ => [(0xFF#8, 0x13#8)]
  | .speed128 _ => [(0xFF#8, 0x3F#8)]
  | .restrictedSpeed _ => [(0xFF#8, 0x3E#8)]
  | .analogFunction _ => [(0xFF#8, 0x3D#8)]
  | .speedRev _ _ _ => [(0xE0#8, 0x40#8)]
  | .speedFwd _ _ _ => [(0xE0#8, 0x60#8)]
  | .fg1 _ _ _ => [(0xE0#8, 0x80#8)]
  | .fg2F5F8 _ _ => [(0xF0#8, 0xB0#8)]
  | .fg2F9F12 _ _ => [(0xF0#8, 0xA0#8)]
  | .binstateLong _ => [(0xFF#8, 0xC0#8)]
  | .modelTime _ _ => [(0xFF#8, 0xC1#8), (0xC0#8, 0x00#8)]
  | .modelDate _ _ => [(0xFF#8, 0xC1#8), (0xC0#8, 0x40#8)]
  | .systemTime _ _ => [(0xFF#8, 0xC1#8), (0xC0#8, 0x80#8)]
  | .f29F36 _ => [(0xFF#8, 0xD8#8)]
  | .f37F44 _ => [(0xFF#8, 0xD9#8)]
  | .f45F52 _ => [(0xFF#8, 0xDA#8)]
  | .f53F60 _ => [(0xFF#8, 0xDB#8)]
  | .f61F68 _ => [(0xFF#8, 0xDC#8)]
  | .binstateShort _ => [(0xFF#8, 0xDD#8)]
  | .f13F20 _ => [(0xFF#8, 0xDE#8)]
  | .f21F28 _ => [(0xFF#8, 0xDF#8)]
  | .pomVerify _ _ => [(0xFC#8, 0xE4#8)]
  | .pomBit _ _ => [(0xFC#8, 0xE8#8)]
  | .pomWrite _ _ => [(0xFC#8, 0xEC#8)]
  | .xpomRead _ _ => [(0xFC#8, 0xE4#8)]
  | .xpomBit _ _ => [(0xFC#8, 0xE8#8)]
  | .xpomWrite _ _ => [(0xFC#8, 0xEC#8)]
  | .cvAccel _ => [(0xFF#8, 0xF2#8)]
  | .cvDecel _ => [(0xFF#8, 0xF3#8)]
  | .cvLongaddr _ => [(0xFF#8, 0xF4#8)]
  | .cvIndex _ => [(0xFF#8, 0xF5#8)]
  | .decoderLock _ => [(0xFF#8, 0xF9#8)]
  | .smDirectVerify _ _ => [(0xFC#8, 0x74#8)]
  | .smDirectBit _ _ => [(0xFC#8, 0x78#8)]
  | .smDirectWrite _ _ => [(0xFC#8, 0x7C#8)]
  | .smRegVerify _ _ => [(0xF8#8, 0x70#8)]
  | .smRegWrite _ _ => [(0xF8#8, 0x78#8)]
  | .accBasic _ _ _ _ _ _ => [(0xC0#8, 0x80#8), (0x80#8, 0x80#8)]
  | .accExt _ _ _ _ => [(0xC0#8, 0x80#8), (0x89#8, 0x01#8)]
  | .accNop _ _ _ _ _ => [(0xC0#8, 0x80#8), (0x88#8, 0x08#8)]
  | .idle _ => [(0xFF#8, 0xFF#8), (0xFF#8, 0x00#8)]
  | .sysCmd _ _ => [(0xFF#8, 0xFF#8), (0x00#8, 0x00#8)]

/-- The first bytes have the fixed bits. -/
def fits : List (Byte × Byte) → List Byte → Bool
  | [], _ => true
  | _ :: _, [] => false
  | p :: ps, b :: bs => (b &&& p.1 == p.2) && fits ps bs

/-- The encoding of `i` matches the row of `i`. -/
def Statement (i : Instr) : Prop := fits (row i) (encode i) = true

theorem reset (ops : List Byte) : Statement (.reset ops) := by
  rfl

theorem hardReset (ops : List Byte) : Statement (.hardReset ops) := by
  rfl

theorem factoryTest (f : BitVec 1) (ops : List Byte) : Statement (.factoryTest f ops) := by
  simp only [Statement, row, encode, fits, Bool.and_true]
  revert f; decide

theorem setDecoderFlags (f : BitVec 1) (ops : List Byte) : Statement (.setDecoderFlags f ops) := by
  simp only [Statement, row, encode, fits, Bool.and_true]
  revert f; decide

theorem setAdvAddr (f : BitVec 1) (ops : List Byte) : Statement (.setAdvAddr f ops) := by
  simp only [Statement, row, encode, fits, Bool.and_true]
  revert f; decide

theorem ackRequest (f : BitVec 1) (ops : List Byte) : Statement (.ackRequest f ops) := by
  simp only [Statement, row, encode, fits, Bool.and_true]
  revert f; decide

theorem consistNormal (ops : List Byte) : Statement (.consistNormal ops) := by
  rfl

theorem consistReverse (ops : List Byte) : Statement (.consistReverse ops) := by
  rfl

theorem speed128 (ops : List Byte) : Statement (.speed128 ops) := by
  rfl

theorem restrictedSpeed (ops : List Byte) : Statement (.restrictedSpeed ops) := by
  rfl

theorem analogFunction (ops : List Byte) : Statement (.analogFunction ops) := by
  rfl

theorem speedRev (c : BitVec 1) (speed : BitVec 4) (ops : List Byte) : Statement (.speedRev c speed ops) := by
  simp only [Statement, row, encode, fits, Bool.and_true]
  revert c speed; decide

theorem speedFwd (c : BitVec 1) (speed : BitVec 4) (ops : List Byte) : Statement (.speedFwd c speed ops) := by
  simp only [Statement, row, encode, fits, Bool.and_true]
  revert c speed; decide

theorem fg1 (f0 : BitVec 1) (f : BitVec 4) (ops : List Byte) : Statement (.fg1 f0 f ops) := by
  simp only [Statement, row, encode, fits, Bool.and_true]
  revert f0 f; decide

theorem fg2F5F8 (f : BitVec 4) (ops : List Byte) : Statement (.fg2F5F8 f ops) := by
  simp only [Statement, row, encode, fits, Bool.and_true]
  revert f; decide

theorem fg2F9F12 (f : BitVec 4) (ops : List Byte) : Statement (.fg2F9F12 f ops) := by
  simp only [Statement, row, encode, fits, Bool.and_true]
  revert f; decide

theorem binstateLong (ops : List Byte) : Statement (.binstateLong ops) := by
  rfl

theorem modelTime (minute : BitVec 6) (ops : List Byte) : Statement (.modelTime minute ops) := by
  simp only [Statement, row, encode, fits, Bool.and_true]
  revert minute; decide

theorem modelDate (low : BitVec 6) (ops : List Byte) : Statement (.modelDate low ops) := by
  simp only [Statement, row, encode, fits, Bool.and_true]
  revert low; decide

theorem systemTime (low : BitVec 6) (ops : List Byte) : Statement (.systemTime low ops) := by
  simp only [Statement, row, encode, fits, Bool.and_true]
  revert low; decide

theorem f29F36 (ops : List Byte) : Statement (.f29F36 ops) := by
  rfl

theorem f37F44 (ops : List Byte) : Statement (.f37F44 ops) := by
  rfl

theorem f45F52 (ops : List Byte) : Statement (.f45F52 ops) := by
  rfl

theorem f53F60 (ops : List Byte) : Statement (.f53F60 ops) := by
  rfl

theorem f61F68 (ops : List Byte) : Statement (.f61F68 ops) := by
  rfl

theorem binstateShort (ops : List Byte) : Statement (.binstateShort ops) := by
  rfl

theorem f13F20 (ops : List Byte) : Statement (.f13F20 ops) := by
  rfl

theorem f21F28 (ops : List Byte) : Statement (.f21F28 ops) := by
  rfl

theorem pomVerify (v : BitVec 2) (ops : List Byte) : Statement (.pomVerify v ops) := by
  simp only [Statement, row, encode, fits, Bool.and_true]
  revert v; decide

theorem pomBit (v : BitVec 2) (ops : List Byte) : Statement (.pomBit v ops) := by
  simp only [Statement, row, encode, fits, Bool.and_true]
  revert v; decide

theorem pomWrite (v : BitVec 2) (ops : List Byte) : Statement (.pomWrite v ops) := by
  simp only [Statement, row, encode, fits, Bool.and_true]
  revert v; decide

theorem xpomRead (ss : BitVec 2) (ops : List Byte) : Statement (.xpomRead ss ops) := by
  simp only [Statement, row, encode, fits, Bool.and_true]
  revert ss; decide

theorem xpomBit (ss : BitVec 2) (ops : List Byte) : Statement (.xpomBit ss ops) := by
  simp only [Statement, row, encode, fits, Bool.and_true]
  revert ss; decide

theorem xpomWrite (ss : BitVec 2) (ops : List Byte) : Statement (.xpomWrite ss ops) := by
  simp only [Statement, row, encode, fits, Bool.and_true]
  revert ss; decide

theorem cvAccel (ops : List Byte) : Statement (.cvAccel ops) := by
  rfl

theorem cvDecel (ops : List Byte) : Statement (.cvDecel ops) := by
  rfl

theorem cvLongaddr (ops : List Byte) : Statement (.cvLongaddr ops) := by
  rfl

theorem cvIndex (ops : List Byte) : Statement (.cvIndex ops) := by
  rfl

theorem decoderLock (ops : List Byte) : Statement (.decoderLock ops) := by
  rfl

theorem smDirectVerify (a : BitVec 2) (ops : List Byte) : Statement (.smDirectVerify a ops) := by
  simp only [Statement, row, encode, fits, Bool.and_true]
  revert a; decide

theorem smDirectBit (a : BitVec 2) (ops : List Byte) : Statement (.smDirectBit a ops) := by
  simp only [Statement, row, encode, fits, Bool.and_true]
  revert a; decide

theorem smDirectWrite (a : BitVec 2) (ops : List Byte) : Statement (.smDirectWrite a ops) := by
  simp only [Statement, row, encode, fits, Bool.and_true]
  revert a; decide

theorem smRegVerify (r : BitVec 3) (ops : List Byte) : Statement (.smRegVerify r ops) := by
  simp only [Statement, row, encode, fits, Bool.and_true]
  revert r; decide

theorem smRegWrite (r : BitVec 3) (ops : List Byte) : Statement (.smRegWrite r ops) := by
  simp only [Statement, row, encode, fits, Bool.and_true]
  revert r; decide

theorem accBasic (lo : BitVec 6) (hi : BitVec 3) (d : BitVec 1) (port : BitVec 2) (r : BitVec 1) (ops : List Byte) : Statement (.accBasic lo hi d port r ops) := by
  simp only [Statement, row, encode, fits, Bool.and_true, Bool.and_eq_true]
  refine ⟨?_, ?_⟩
  · revert lo; decide
  · clear lo
    revert hi d port r; decide

theorem accExt (lo : BitVec 6) (hi : BitVec 3) (port : BitVec 2) (ops : List Byte) : Statement (.accExt lo hi port ops) := by
  simp only [Statement, row, encode, fits, Bool.and_true, Bool.and_eq_true]
  refine ⟨?_, ?_⟩
  · revert lo; decide
  · clear lo
    revert hi port; decide

theorem accNop (lo : BitVec 6) (hi : BitVec 3) (port : BitVec 2) (t : BitVec 1) (ops : List Byte) : Statement (.accNop lo hi port t ops) := by
  simp only [Statement, row, encode, fits, Bool.and_true, Bool.and_eq_true]
  refine ⟨?_, ?_⟩
  · revert lo; decide
  · clear lo
    revert hi port t; decide

theorem idle (ops : List Byte) : Statement (.idle ops) := by
  rfl

theorem sysCmd (n : Byte) (ops : List Byte) : Statement (.sysCmd n ops) := by
  simp [Statement, row, encode, fits]

end Sys2Proof.Laws.TableRow
end

