-- ==== Sys2Proof/Laws/Ports.lean ====
section
/-! SUPPORT. The ports: which interaction a step takes, and everything a step can be. -/

namespace Sys2Proof.Machine

@[simp] theorem nextAct_nil (ready : Bool) : nextAct ready [] = none := rfl

@[simp] theorem nextAct_ready (l : List HostAct) (a : HostAct) : nextAct true (a :: l) = some (a, l) := by
  cases a <;> rfl

/-- With records pending no edge is taken (10_state.md R21). -/
theorem nextAct_waiting {l : List HostAct} {a : HostAct} {rest : List HostAct} (h : nextAct false l = some (a, rest)) :
    ∀ ts level, a ≠ .edge ts level := by
  induction l generalizing rest with
  | nil => cases h
  | cons b l ih =>
    cases b with
    | edge ts level =>
      simp only [nextAct, Bool.false_eq_true, if_false, Option.map_eq_some_iff] at h
      obtain ⟨p, hp, he⟩ := h
      cases he
      exact ih hp
    | accept => cases h; simp
    | memRead o => cases h; simp
    | memWrite o v => cases h; simp
    | hardReset => cases h; simp

/-- The interaction a step takes is one the host had to present. -/
theorem nextAct_mem {ready : Bool} {l : List HostAct} {a : HostAct} {rest : List HostAct}
    (h : nextAct ready l = some (a, rest)) : a ∈ l := by
  induction l generalizing rest with
  | nil => cases h
  | cons b l ih =>
    cases b with
    | edge ts level =>
      cases ready with
      | true => cases h; simp
      | false =>
        simp only [nextAct, Bool.false_eq_true, if_false, Option.map_eq_some_iff] at h
        obtain ⟨p, hp, he⟩ := h
        cases he
        exact List.mem_cons_of_mem _ (ih hp)
    | accept => cases h; simp
    | memRead o => cases h; simp
    | memWrite o v => cases h; simp
    | hardReset => cases h; simp

/-- With records pending the first interaction that is no edge is taken, and the edges before it wait (60_exceptions.md
R339). -/
theorem nextAct_append {waiting rest : List HostAct} {a : HostAct} (hw : ∀ b ∈ waiting, ∃ ts level, b = .edge ts level)
    (ha : ∀ ts level, a ≠ .edge ts level) : nextAct false (waiting ++ a :: rest) = some (a, waiting ++ rest) := by
  induction waiting with
  | nil =>
    cases a with
    | edge ts level => exact absurd rfl (ha ts level)
    | accept => rfl
    | memRead o => rfl
    | memWrite o v => rfl
    | hardReset => rfl
  | cons b l ih =>
    obtain ⟨ts, level, rfl⟩ := hw b (List.mem_cons_self ..)
    simp [nextAct, ih fun c hc => hw c (List.mem_cons_of_mem _ hc)]

/-- Everything a step can be: waiting, or one interaction performed. -/
theorem step_cases {s : State} {o : Out} (h : step s = o) :
    (nextAct s.outq.isEmpty s.host.script = none ∧ o = .next s) ∨
    (∃ a rest, nextAct s.outq.isEmpty s.host.script = some (a, rest) ∧ o = perform a (s.withScript rest)) := by
  unfold step takeTurn at h
  split at h
  · exact .inl ⟨by assumption, h.symm⟩
  · exact .inr ⟨_, _, by assumption, h.symm⟩

/-- A delivered edge is processed. -/
theorem deliver_next (ts : Ts) (level : Bool) (s : State) : ∃ s', deliver ts level s = .next s' := by
  unfold deliver
  split
  · exact ⟨_, rfl⟩
  · exact ⟨_, rfl⟩
  · exact framer_next _ _ _ _ _

/-- An accepted edge is processed, dropped or discarded. -/
theorem acceptEdge_next (ts : Ts) (level : Bool) (s : State) : ∃ s', acceptEdge ts level s = .next s' := by
  unfold acceptEdge
  split
  · exact ⟨_, rfl⟩
  split
  · exact ⟨_, rfl⟩
  dsimp only
  split
  · unfold filterEdge
    split
    · dsimp only
      split
      · exact ⟨_, rfl⟩
      · exact deliver_next _ _ _
    · exact ⟨_, rfl⟩
  · exact deliver_next _ _ _

/-- Everything accepting a record can do (10_state.md R22). -/
theorem acceptRecord_cases (s : State) :
    (s.outq = [] ∧ acceptRecord s = s) ∨
    (∃ r rest, s.outq = r :: rest ∧
      acceptRecord s = { s with outq := rest, host := { s.host with taken := s.host.taken ++ [r] } }) := by
  unfold acceptRecord
  cases h : s.outq with
  | nil => exact .inl ⟨rfl, rfl⟩
  | cons r rest => exact .inr ⟨r, rest, rfl, rfl⟩

end Sys2Proof.Machine
end

