-- ==== Sys2Proof/Tests/Slice0.lean ====
section
/-! SUPPORT. The model's own tests: the well-formedness checks refuse ill-formed terms, every constructor decodes from
bytes written out from its encoding, one or two packets for each instruction and the register vectors of
95_test_vectors.md, opcode-table words, and for every statement with hypotheses a state and operands that meet them
together, each clause at a boundary of its range. Expected values come from spec/. -/

namespace Sys2Proof.Tests

open Sys2Proof.Machine

/-! ### Helpers -/

/-- Bytes in the packet buffer; byte `k` starts and ends at sample `k`, as the vectors write ranges. -/
def bytesIn (k : Nat) : List Byte → List PktByte
  | [] => []
  | b :: rest => ⟨b, BitVec.ofNat 64 k, BitVec.ofNat 64 k⟩ :: bytesIn (k + 1) rest

/-- A stopped block with a packet in its buffer. -/
def packetState (mode : BitVec 3) (offset : BitVec 16) (bytes : List Byte) : State :=
  { State.reset with mode := mode, accOffset := offset, dp := { Datapath.reset with pkt := bytesIn 0 bytes } }

/-- The same with the cursor at content byte 1 of a packet for address 3. -/
def atOpcode (mode : BitVec 3) (bytes : List Byte) : State :=
  { packetState mode 0 bytes with cur := ⟨1, .mf7, 3⟩ }

/-- Code, three arguments, first and last byte of each FIELD record. -/
def fields (o : Out) : List (List Nat) :=
  match o with
  | .next s => (s.outq.filter fun r => r.kind == 6).map fun r =>
      [r.a0.toNat, r.a1.toNat, r.a2.toNat, r.a3.toNat, r.start.toNat, r.stop.toNat]
  | .fault _ => []
  | .refused _ => []

/-- The state of a next step, else `s`. -/
def stateOr (s : State) (o : Out) : State :=
  match o with
  | .next t => t
  | .fault _ => s
  | .refused _ => s

/-- The host's interactions in order, one after the other. -/
def performs (acts : List HostAct) (s : State) : State :=
  acts.foldl (fun s a => stateOr s (perform a s)) s

/-! ### Well-formedness -/

/-- POM takes at most two operand bytes, XPOM at least three (44_cv_access.md R280). -/
theorem test_wf_cvAccess : [Instr.pomVerify 0 [0, 0, 0], .pomBit 0 [0, 0, 0], .pomWrite 0 [0, 0, 0], .xpomRead 0 [0, 0],
    .xpomBit 0 [0, 0], .xpomWrite 0 [0, 0]].map Instr.wf = List.replicate 6 false := by decide

/-- A direct-mode packet has two bytes after byte 0, a register-mode packet one (44_cv_access.md R298). -/
theorem test_wf_service : [Instr.smDirectVerify 0 [0], .smDirectBit 0 [0, 0, 0], .smDirectWrite 0 [], .smRegVerify 0 [],
    .smRegWrite 0 [0, 0]].map Instr.wf = List.replicate 5 false := by decide

/-- The POM shapes are no ACC_BASIC and no ACC_EXT (42_dispatch.md R195, R198); system command 0 is IDLE (R192). -/
theorem test_wf_packet : [Instr.accBasic 1 7 1 0 0 [0xEC], .accExt 1 7 0 [0xEC, 0], .sysCmd 0 []].map Instr.wf
    = List.replicate 3 false := by decide

/-- The packet buffer holds 16 bytes with the checksum (41_framer.md R152). -/
theorem test_wf_size : [Instr.reset (List.replicate 14 0), .xpomRead 0 (List.replicate 14 0),
    .idle (List.replicate 14 0)].map Instr.wf = List.replicate 3 false := by decide

/-- Headers an instruction may not follow, one for each check of `headerFits`. -/
theorem test_wf_header : [packetWf true .bare (.reset []), packetWf true .bare (.pomVerify 0 [0, 0]),
    packetWf false .bare (.smRegVerify 0 [0]), packetWf false .broadcast (.idle []), packetWf false (.mf7 3) (.idle []),
    packetWf false (.mf7 0) (.reset []), packetWf true (.mf7 112) (.reset []), packetWf false (.mf14 40 0) (.reset []),
    packetWf true (.mf14 0 1) (.smRegVerify 0 [0]), packetWf false (.reserved 232) (.reset []),
    packetWf false .idleSystem (.reset []), packetWf false (.accPom 1 7 0 0) (.reset []),
    packetWf false (.accExtPom 1 7 0) (.reset []), packetWf false (.accExtPom 1 7 0) (.pomVerify 0 []),
    packetWf false (.mf14 0 1) (.reset (List.replicate 13 0))] = List.replicate 15 false := by decide

/-! ### Decoding: bytes written out from the encodings of 30_encoding.md R83 to R86 -/

/-- Multi-function packets, addressed to decoder 3. -/
def decodes3 (l : List (List Byte × Instr)) : Bool :=
  l.all fun p => decodePacket false (0b00000011#8 :: p.1) == ⟨.mf7 3, .instr p.2⟩

theorem test_decode_control : decodes3 [
    ([0b00000000], .reset []), ([0b00000001], .hardReset []), ([0b00000011], .factoryTest 1 []),
    ([0b00000110, 0b00101010], .setDecoderFlags 0 [42]), ([0b00001011], .setAdvAddr 1 []),
    ([0b00001110], .ackRequest 0 []), ([0b00010010, 0b00000101], .consistNormal [5]),
    ([0b00010011, 0b00000000], .consistReverse [0])] = true := by decide

theorem test_decode_speed : decodes3 [
    ([0b00111111, 0b10010000], .speed128 [0x90]), ([0b00111110, 0b10010101], .restrictedSpeed [0x95]),
    ([0b00111101, 0b00000001, 0b10000000], .analogFunction [1, 128]), ([0b01010001], .speedRev 1 1 []),
    ([0b01101111], .speedFwd 0 15 [])] = true := by decide

theorem test_decode_functions : decodes3 [
    ([0b10010101], .fg1 1 5 []), ([0b10110101], .fg2F5F8 5 []), ([0b10101010], .fg2F9F12 10 []),
    ([0b11011000, 0b10000000], .f29F36 [128]), ([0b11011001, 0b00000001], .f37F44 [1]),
    ([0b11011010, 0b00000001], .f45F52 [1]), ([0b11011011, 0b00000001], .f53F60 [1]),
    ([0b11011100, 0b00000001], .f61F68 [1]), ([0b11011110, 0b10100101], .f13F20 [165]),
    ([0b11011111, 0b00000001], .f21F28 [1])] = true := by decide

theorem test_decode_feature : decodes3 [
    ([0b11000000, 0b10000101, 0b00000010], .binstateLong [0x85, 2]), ([0b11011101, 0b10000101], .binstateShort [0x85]),
    ([0b11000001, 0b00011110, 0b01101100, 0b10000100], .modelTime 30 [0x6C, 0x84]),
    ([0b11000001, 0b01001011, 0b11000111, 0b11101001], .modelDate 11 [0xC7, 0xE9]),
    ([0b11000001, 0b10000000, 0b00010010, 0b00110100], .systemTime 0 [0x12, 0x34])] = true := by decide

theorem test_decode_cvAccess : decodes3 [
    ([0b11100111, 0b11111111, 0b10000000], .pomVerify 3 [255, 128]),
    ([0b11101001, 0b00010110, 0b11110101], .pomBit 1 [22, 0xF5]), ([0b11101100, 0b00010110], .pomWrite 0 [22]),
    ([0b11100101, 0b00000000, 0b00000000, 0b00010110], .xpomRead 1 [0, 0, 22]),
    ([0b11101001, 0b00000000, 0b00000000, 0b00010110, 0b11111000], .xpomBit 1 [0, 0, 22, 0xF8]),
    ([0b11101110, 0b00010010, 0b00110100, 0b01010110, 0b00000001], .xpomWrite 2 [0x12, 0x34, 0x56, 1]),
    ([0b11110010, 0b00000101], .cvAccel [5]), ([0b11110011, 0b00010000], .cvDecel [16]),
    ([0b11110100, 0b11000000, 0b01100100], .cvLongaddr [192, 100]),
    ([0b11110101, 0b00000001, 0b00000010], .cvIndex [1, 2]), ([0b11111001, 0b10000011], .decoderLock [0x83])]
    = true := by decide

/-- Whole packets. -/
def decodesAll (svc : Bool) (l : List (List Byte × Instr)) : Bool :=
  l.all fun p => decodePacket svc p.1 == ⟨.bare, .instr p.2⟩

theorem test_decode_service : decodesAll true [
    ([0b01110111, 0b11111111, 0b10000000], .smDirectVerify 3 [255, 128]),
    ([0b01111000, 0b00000000, 0b11110000], .smDirectBit 0 [0, 0xF0]),
    ([0b01111100, 0b00000000, 0b00000101], .smDirectWrite 0 [0, 5]), ([0b01110101, 0b00000001], .smRegVerify 5 [1]),
    ([0b01111011, 0b00100010], .smRegWrite 3 [34])] = true := by decide

theorem test_decode_packet : decodesAll false [
    ([0b10000001, 0b11111000], .accBasic 1 7 1 0 0 []), ([0b10111111, 0b10001111], .accBasic 63 0 1 3 1 []),
    ([0b10000001, 0b01110001, 0b00000101], .accExt 1 7 0 [5]), ([0b10000001, 0b01111001], .accNop 1 7 0 1 []),
    ([0b11111111, 0b00000000, 0b00010010], .idle [18]), ([0b11111111, 0b00010010, 0b00110100], .sysCmd 18 [52])]
    = true := by decide

/-- The accessory POM headers (42_dispatch.md R195, R198). -/
theorem test_decode_accessory_pom :
    decodePacket false [0b10000001, 0b11111111, 0b11100100, 0b00011111, 0b00000111]
      = ⟨.accPom 1 7 1 7, .instr (.pomVerify 0 [31, 7])⟩ ∧
    decodePacket false [0b10000001, 0b01110001, 0b11101100, 0b00000000, 0b00000101]
      = ⟨.accExtPom 1 7 0, .instr (.pomWrite 0 [0, 5])⟩ := by decide

/-! ### Opcode-table words (log entries 4 and 5) -/

theorem test_tableWords : [decodeTableWord 8 0x3F, decodeTableWord 16 0xC140, decodeTableWord 8 0xE4, decodeTableWord 8 0x74,
    decodeTableWord 8 0x70, decodeTableWord 16 0x8001, decodeTableWord 16 0xFF00, decodeTableWord 16 0xFF12,
    decodeTableWord 8 0x3C]
    = [some (.speed128 [0]), some (.modelDate 0 [0, 0]), some (.pomVerify 0 [0, 0]), some (.smDirectVerify 0 [0, 0]),
      some (.smRegVerify 0 [0]), some (.accExt 0 0 0 [0]), some (.idle []), some (.sysCmd 0x12 []), none] := by decide

/-- The next step after the placing runs the word: SPEED128 with speed 0, STOP (43_multifunction.md R230). -/
theorem test_withFetchWord_runs : (fields (step (State.reset.withFetchWord 8 0x3F))).map (List.take 4)
    = [[1, 1, 3, 0], [2, 9, 0, 0], [0x10, 0, 1, 0]] := by decide

/-! ### One packet for each instruction -/

/-- 95_test_vectors.md MF-1. -/
theorem test_runReset : fields (decodeAndRun (packetState 0 0 [0x03, 0x00, 0x03])) =
    [[1, 1, 3, 0, 0, 0], [2, 1, 0, 0, 1, 1]] := by
  decide

/-- 95_test_vectors.md MF-3. -/
theorem test_runHardReset : fields (decodeAndRun (packetState 0 0 [0x03, 0x01, 0x02])) =
    [[1, 1, 3, 0, 0, 0], [2, 2, 0, 0, 1, 1]] := by
  decide

/-- 95_test_vectors.md MF-5. -/
theorem test_runFactoryTest : fields (decodeAndRun (packetState 0 0 [0x03, 0x03, 0x00])) =
    [[1, 1, 3, 0, 0, 0], [2, 3, 0, 0, 1, 1], [19, 1, 0, 0, 1, 1]] := by
  decide

/-- 95_test_vectors.md MF-7. -/
theorem test_runSetDecoderFlags : fields (decodeAndRun (packetState 0 0 [0x03, 0x07, 0x04])) =
    [[1, 1, 3, 0, 0, 0], [2, 4, 0, 0, 1, 1], [19, 1, 0, 0, 1, 1], [3, 2, 0, 0, 1, 1]] := by
  decide

/-- 95_test_vectors.md MF-8. -/
theorem test_runSetAdvAddr : fields (decodeAndRun (packetState 0 0 [0x03, 0x0A, 0x09])) =
    [[1, 1, 3, 0, 0, 0], [2, 5, 0, 0, 1, 1], [19, 0, 0, 0, 1, 1]] := by
  decide

/-- 95_test_vectors.md MF-9. -/
theorem test_runAckRequest : fields (decodeAndRun (packetState 0 0 [0x03, 0x0E, 0x0D])) =
    [[1, 1, 3, 0, 0, 0], [2, 6, 0, 0, 1, 1], [19, 0, 0, 0, 1, 1]] := by
  decide

/-- 95_test_vectors.md MF-11. -/
theorem test_runConsistNormal : fields (decodeAndRun (packetState 0 0 [0x03, 0x12, 0x85, 0x94])) =
    [[1, 1, 3, 0, 0, 0], [2, 7, 0, 0, 1, 1], [21, 5, 0, 0, 2, 2]] := by
  decide

/-- 95_test_vectors.md MF-12. -/
theorem test_runConsistReverse : fields (decodeAndRun (packetState 0 0 [0x03, 0x13, 0x00, 0x10])) =
    [[1, 1, 3, 0, 0, 0], [2, 8, 0, 0, 1, 1], [21, 0, 1, 0, 2, 2]] := by
  decide

/-- 95_test_vectors.md MF-17. -/
theorem test_runSpeed128 : fields (decodeAndRun (packetState 0 0 [0x03, 0x3F, 0x90, 0x00, 0xAC])) =
    [[1, 1, 3, 0, 0, 0], [2, 9, 0, 0, 1, 1], [16, 1, 0, 15, 2, 2], [4, 0, 0, 0, 3, 3]] := by
  decide

/-- 95_test_vectors.md MF-19. -/
theorem test_runRestrictedSpeed : fields (decodeAndRun (packetState 0 0 [0x03, 0x3E, 0x7F, 0x42])) =
    [[1, 1, 3, 0, 0, 0], [2, 10, 0, 0, 1, 1], [22, 0, 31, 0, 2, 2]] := by
  decide

/-- 95_test_vectors.md MF-20. -/
theorem test_runAnalogFunction : fields (decodeAndRun (packetState 0 0 [0x03, 0x3D, 0x01, 0x80, 0xBF])) =
    [[1, 1, 3, 0, 0, 0], [2, 11, 0, 0, 1, 1], [23, 1, 128, 0, 2, 3]] := by
  decide

/-- 95_test_vectors.md MF-27. -/
theorem test_runSpeedRev : fields (decodeAndRun (packetState 0 0 [0x03, 0x51, 0x52])) =
    [[1, 1, 3, 0, 0, 0], [2, 12, 0, 0, 1, 1], [16, 0, 4, 0, 1, 1]] := by
  decide

/-- 95_test_vectors.md MF-35. -/
theorem test_runSpeedRev_mode14 : fields (decodeAndRun (packetState 2 0 [0x03, 0x42, 0x41])) =
    [[1, 1, 3, 0, 0, 0], [2, 12, 0, 0, 1, 1], [16, 0, 0, 1, 1, 1], [17, 0, 1, 0, 1, 1]] := by
  decide

/-- 95_test_vectors.md MF-30. -/
theorem test_runSpeedFwd : fields (decodeAndRun (packetState 0 0 [0x03, 0x7F, 0x7C])) =
    [[1, 1, 3, 0, 0, 0], [2, 13, 0, 0, 1, 1], [16, 1, 0, 28, 1, 1]] := by
  decide

/-- 95_test_vectors.md MF-33. -/
theorem test_runSpeedFwd_mode14 : fields (decodeAndRun (packetState 2 0 [0x03, 0x71, 0x72])) =
    [[1, 1, 3, 0, 0, 0], [2, 13, 0, 0, 1, 1], [16, 1, 3, 0, 1, 1], [17, 0, 1, 1, 1, 1]] := by
  decide

/-- 95_test_vectors.md MF-36. -/
theorem test_runFg1 : fields (decodeAndRun (packetState 0 0 [0x03, 0x95, 0x96])) =
    [[1, 1, 3, 0, 0, 0], [2, 14, 0, 0, 1, 1], [17, 0, 5, 11, 1, 1]] := by
  decide

/-- 95_test_vectors.md MF-38. -/
theorem test_runFg1_mode14 : fields (decodeAndRun (packetState 2 0 [0x03, 0x95, 0x96])) =
    [[1, 1, 3, 0, 0, 0], [2, 14, 0, 0, 1, 1], [17, 1, 4, 5, 1, 1], [18, 4, 1, 0, 1, 1]] := by
  decide

/-- 95_test_vectors.md MF-39. -/
theorem test_runFg2F5F8 : fields (decodeAndRun (packetState 0 0 [0x03, 0xB5, 0xB6])) =
    [[1, 1, 3, 0, 0, 0], [2, 15, 0, 0, 1, 1], [17, 5, 4, 5, 1, 1]] := by
  decide

/-- 95_test_vectors.md MF-40. -/
theorem test_runFg2F9F12 : fields (decodeAndRun (packetState 0 0 [0x03, 0xAA, 0xA9])) =
    [[1, 1, 3, 0, 0, 0], [2, 16, 0, 0, 1, 1], [17, 9, 4, 10, 1, 1]] := by
  decide

/-- 95_test_vectors.md MF-41. -/
theorem test_runBinstateLong : fields (decodeAndRun (packetState 0 0 [0x03, 0xC0, 0x85, 0x02, 0x44])) =
    [[1, 1, 3, 0, 0, 0], [2, 17, 0, 0, 1, 1], [24, 261, 1, 0, 2, 3]] := by
  decide

/-- 95_test_vectors.md MF-45. -/
theorem test_runModelTime : fields (decodeAndRun (packetState 0 0 [0x03, 0xC1, 0x1E, 0x6C, 0x84, 0x34])) =
    [[1, 1, 3, 0, 0, 0], [2, 18, 0, 0, 1, 1], [31, 3, 0, 0, 1, 1], [25, 12, 30, 0, 2, 3], [26, 3, 0, 0, 3, 3], [27, 1, 4, 0, 4, 4]] := by
  decide

/-- 95_test_vectors.md MF-46. -/
theorem test_runModelDate : fields (decodeAndRun (packetState 0 0 [0x00, 0xC1, 0x4B, 0xC7, 0xE9, 0xA4])) =
    [[1, 0, 0, 0, 0, 0], [2, 19, 0, 0, 1, 1], [28, 11, 12, 0, 2, 3], [29, 2025, 0, 0, 3, 4]] := by
  decide

/-- 95_test_vectors.md MF-47. -/
theorem test_runSystemTime : fields (decodeAndRun (packetState 0 0 [0x00, 0xC1, 0x80, 0x12, 0x34, 0x67])) =
    [[1, 0, 0, 0, 0, 0], [2, 20, 0, 0, 1, 1], [30, 4660, 0, 0, 3, 4]] := by
  decide

/-- 95_test_vectors.md MF-53. -/
theorem test_runF29F36 : fields (decodeAndRun (packetState 0 0 [0x03, 0xD8, 0x80, 0x5B])) =
    [[1, 1, 3, 0, 0, 0], [2, 21, 0, 0, 1, 1], [17, 29, 8, 128, 2, 2]] := by
  decide

/-- 95_test_vectors.md MF-54. -/
theorem test_runF37F44 : fields (decodeAndRun (packetState 0 0 [0x03, 0xD9, 0x01, 0xDB])) =
    [[1, 1, 3, 0, 0, 0], [2, 22, 0, 0, 1, 1], [17, 37, 8, 1, 2, 2]] := by
  decide

/-- 95_test_vectors.md MF-55. -/
theorem test_runF45F52 : fields (decodeAndRun (packetState 0 0 [0x03, 0xDA, 0x01, 0xD8])) =
    [[1, 1, 3, 0, 0, 0], [2, 23, 0, 0, 1, 1], [17, 45, 8, 1, 2, 2]] := by
  decide

/-- 95_test_vectors.md MF-56. -/
theorem test_runF53F60 : fields (decodeAndRun (packetState 0 0 [0x03, 0xDB, 0x01, 0xD9])) =
    [[1, 1, 3, 0, 0, 0], [2, 24, 0, 0, 1, 1], [17, 53, 8, 1, 2, 2]] := by
  decide

/-- 95_test_vectors.md MF-57. -/
theorem test_runF61F68 : fields (decodeAndRun (packetState 0 0 [0x03, 0xDC, 0x01, 0xDE])) =
    [[1, 1, 3, 0, 0, 0], [2, 25, 0, 0, 1, 1], [17, 61, 8, 1, 2, 2]] := by
  decide

/-- 95_test_vectors.md MF-58. -/
theorem test_runBinstateShort : fields (decodeAndRun (packetState 0 0 [0x03, 0xDD, 0x85, 0x5B])) =
    [[1, 1, 3, 0, 0, 0], [2, 26, 0, 0, 1, 1], [24, 5, 1, 0, 2, 2]] := by
  decide

/-- 95_test_vectors.md MF-62. -/
theorem test_runF13F20 : fields (decodeAndRun (packetState 0 0 [0xC0, 0x01, 0xDE, 0xFF, 0xE0])) =
    [[1, 2, 1, 0, 0, 1], [2, 27, 0, 0, 2, 2], [17, 13, 8, 255, 3, 3]] := by
  decide

/-- 95_test_vectors.md MF-52. -/
theorem test_runF21F28 : fields (decodeAndRun (packetState 0 0 [0x03, 0xDF, 0x01, 0xDD])) =
    [[1, 1, 3, 0, 0, 0], [2, 28, 0, 0, 1, 1], [17, 21, 8, 1, 2, 2]] := by
  decide

/-- 95_test_vectors.md DI-28. -/
theorem test_runPomVerify : fields (decodeAndRun (packetState 0 0 [0x81, 0xFF, 0xE4, 0x1F, 0x07, 0x82])) =
    [[50, 1, 0, 0, 0, 1], [51, 1, 7, 0, 1, 1], [2, 32, 0, 0, 2, 2], [32, 32, 1, 0, 3, 3], [33, 7, 0, 0, 4, 4]] := by
  decide

/-- 95_test_vectors.md CV-3. -/
theorem test_runPomBit : fields (decodeAndRun (packetState 0 0 [0x03, 0xE9, 0x16, 0xF5, 0x09])) =
    [[1, 1, 3, 0, 0, 0], [2, 33, 0, 0, 1, 1], [32, 279, 2, 0, 2, 2], [34, 1, 5, 0, 3, 3]] := by
  decide

/-- 95_test_vectors.md DI-32. -/
theorem test_runPomWrite : fields (decodeAndRun (packetState 0 0 [0x81, 0x71, 0xEC, 0x00, 0x05, 0x19])) =
    [[52, 4, 1, 0, 0, 1], [2, 34, 0, 0, 2, 2], [32, 1, 3, 0, 3, 3], [33, 5, 0, 0, 4, 4]] := by
  decide

/-- 95_test_vectors.md CV-10. -/
theorem test_runXpomRead : fields (decodeAndRun (packetState 0 0 [0x03, 0xE5, 0x00, 0x00, 0x16, 0xF0])) =
    [[1, 1, 3, 0, 0, 0], [2, 35, 0, 0, 1, 1], [35, 1, 1, 23, 2, 4]] := by
  decide

/-- 95_test_vectors.md CV-12. -/
theorem test_runXpomBit : fields (decodeAndRun (packetState 0 0 [0x03, 0xE9, 0x00, 0x00, 0x16, 0xF8, 0x04])) =
    [[1, 1, 3, 0, 0, 0], [2, 36, 0, 0, 1, 1], [35, 2, 1, 23, 2, 4], [34, 1, 0, 1, 5, 5]] := by
  decide

/-- 95_test_vectors.md CV-15. -/
theorem test_runXpomWrite : fields (decodeAndRun (packetState 0 0 [0x03, 0xEC, 0xFF, 0xFF, 0xFF, 0x01, 0x02, 0x03, 0x04, 0x05, 0x11])) =
    [[1, 1, 3, 0, 0, 0], [2, 37, 0, 0, 1, 1], [35, 3, 0, 16777216, 2, 4], [33, 1, 0, 0, 5, 5], [33, 2, 0, 0, 6, 6], [33, 3, 0, 0, 7, 7], [33, 4, 0, 0, 8, 8], [4, 5, 0, 0, 9, 9]] := by
  decide

/-- 95_test_vectors.md CV-17. -/
theorem test_runCvAccel : fields (decodeAndRun (packetState 0 0 [0x03, 0xF2, 0x05, 0xF4])) =
    [[1, 1, 3, 0, 0, 0], [2, 38, 0, 0, 1, 1], [32, 23, 3, 0, 1, 1], [33, 5, 0, 0, 2, 2]] := by
  decide

/-- 95_test_vectors.md CV-18. -/
theorem test_runCvDecel : fields (decodeAndRun (packetState 0 0 [0x03, 0xF3, 0x10, 0xE0])) =
    [[1, 1, 3, 0, 0, 0], [2, 39, 0, 0, 1, 1], [32, 24, 3, 0, 1, 1], [33, 16, 0, 0, 2, 2]] := by
  decide

/-- 95_test_vectors.md CV-19. -/
theorem test_runCvLongaddr : fields (decodeAndRun (packetState 0 0 [0x03, 0xF4, 0xC0, 0x37])) =
    [[1, 1, 3, 0, 0, 0], [2, 40, 0, 0, 1, 1], [32, 17, 3, 0, 1, 1], [33, 192, 0, 0, 2, 2], [32, 18, 3, 0, 1, 1], [3, 3, 0, 0, 2, 2]] := by
  decide

/-- 95_test_vectors.md CV-21. -/
theorem test_runCvIndex : fields (decodeAndRun (packetState 0 0 [0x03, 0xF5, 0x01, 0x02, 0xF5])) =
    [[1, 1, 3, 0, 0, 0], [2, 41, 0, 0, 1, 1], [32, 31, 3, 0, 1, 1], [33, 1, 0, 0, 2, 2], [32, 32, 3, 0, 1, 1], [33, 2, 0, 0, 3, 3]] := by
  decide

/-- 95_test_vectors.md CV-22. -/
theorem test_runDecoderLock : fields (decodeAndRun (packetState 0 0 [0x03, 0xF9, 0x83, 0x79])) =
    [[1, 1, 3, 0, 0, 0], [2, 42, 0, 0, 1, 1], [36, 3, 0, 0, 2, 2]] := by
  decide

/-- 95_test_vectors.md CV-26. -/
theorem test_runSmDirectVerify : fields (decodeAndRun (packetState 1 0 [0x77, 0xFF, 0x80, 0x08])) =
    [[2, 48, 0, 0, 0, 0], [32, 1024, 1, 0, 1, 1], [33, 128, 0, 0, 2, 2]] := by
  decide

/-- 95_test_vectors.md CV-27. -/
theorem test_runSmDirectBit : fields (decodeAndRun (packetState 1 0 [0x78, 0x00, 0xF0, 0x88])) =
    [[2, 49, 0, 0, 0, 0], [32, 1, 2, 0, 1, 1], [34, 1, 0, 0, 2, 2]] := by
  decide

/-- 95_test_vectors.md CV-28. -/
theorem test_runSmDirectWrite : fields (decodeAndRun (packetState 1 0 [0x7C, 0x00, 0x05, 0x79])) =
    [[2, 50, 0, 0, 0, 0], [32, 1, 3, 0, 1, 1], [33, 5, 0, 0, 2, 2]] := by
  decide

/-- 95_test_vectors.md CV-32. -/
theorem test_runSmRegVerify : fields (decodeAndRun (packetState 1 0 [0x75, 0x01, 0x74])) =
    [[2, 51, 0, 0, 0, 0], [37, 0, 6, 1, 1, 1]] := by
  decide

/-- 95_test_vectors.md CV-33. -/
theorem test_runSmRegWrite : fields (decodeAndRun (packetState 1 0 [0x7B, 0x22, 0x59])) =
    [[2, 52, 0, 0, 0, 0], [37, 1, 4, 34, 1, 1]] := by
  decide

/-- 95_test_vectors.md DI-21. -/
theorem test_runAccBasic : fields (decodeAndRun (packetState 0 0 [0x80, 0xF8, 0x78])) =
    [[48, 0, 0, 4294967293, 0, 1], [2, 56, 0, 0, 1, 1], [49, 1, 0, 0, 1, 1]] := by
  decide

/-- 95_test_vectors.md DI-29. -/
theorem test_runAccExt : fields (decodeAndRun (packetState 0 0 [0x81, 0x71, 0x05, 0xF5])) =
    [[52, 4, 1, 0, 0, 1], [2, 57, 0, 0, 1, 1], [53, 5, 0, 0, 2, 2]] := by
  decide

/-- 95_test_vectors.md DI-34. -/
theorem test_runAccNop : fields (decodeAndRun (packetState 0 0 [0x81, 0x79, 0xF8])) =
    [[52, 4, 1, 0, 0, 1], [2, 58, 0, 0, 1, 1], [54, 1, 0, 0, 1, 1]] := by
  decide

/-- 95_test_vectors.md DI-15. -/
theorem test_runIdle : fields (decodeAndRun (packetState 0 0 [0xFF, 0x00, 0x12, 0xED])) =
    [[1, 4, 255, 0, 0, 0], [2, 60, 0, 0, 1, 1], [4, 18, 0, 0, 2, 2]] := by
  decide

/-- 95_test_vectors.md DI-17. -/
theorem test_runSysCmd : fields (decodeAndRun (packetState 0 0 [0xFF, 0x12, 0x34, 0xD9])) =
    [[1, 4, 255, 0, 0, 0], [2, 61, 0, 0, 1, 1], [56, 18, 0, 0, 1, 1], [57, 52, 0, 0, 2, 2]] := by
  decide

/-! ### Registers (95_test_vectors.md RG) -/

/-- RG-1. -/
theorem test_resetRegisters : [0x00, 0x04, 0x08, 0x0C, 0x10, 0x14, 0x18, 0x1C, 0xFC].map (fun o => readReg o State.reset)
    = [0, 0x008, 0, 0, 4000, 0, 0, 0, 0] := by decide

/-- RG-2, RG-3, RG-4, RG-5: STATUS after START. -/
theorem test_start : [[.memWrite 0x00 1], [.memWrite 0x08 24999, .memWrite 0x00 1], [.memWrite 0x08 25000, .memWrite 0x00 1],
      [.memWrite 0x08 1000000, .memWrite 0x0C 501, .memWrite 0x00 1]].map
      (fun acts => readReg 0x04 (performs acts State.reset)) = [0x00A, 0x00A, 0x009, 0x00A] := by decide

/-- RG-6, RG-10, RG-11: stored bits, reserved and misaligned offsets. -/
theorem test_registerBits :
    let s := performs [.memWrite 0x0C 0xFFFFF5F4, .memWrite 0x14 0xFFFFFFFF, .memWrite 0x18 0x1234FFFF, .memWrite 0x20 5,
      .memWrite 0x09 7] State.reset
    [0x0C, 0x14, 0x18, 0x20, 0x09, 0x08].map (fun o => readReg o s) = [0x1F4, 7, 0xFFFF, 0, 0, 0] := by decide

/-- RG-8, RG-9: while running. -/
theorem test_runningRegisters :
    let s := performs [.memWrite 0x08 25000, .memWrite 0x00 1, .memWrite 0x08 1000000, .memWrite 0x14 7, .memWrite 0x00 1]
      State.reset
    [0x04, 0x08, 0x14].map (fun o => readReg o s) = [0x009, 25000, 0] := by decide

/-- 95_test_vectors.md CL: halves of 58 and 100 us, and the threshold neighbours of R119, R120, R122 and R123 at 1 MHz. -/
theorem test_classes : [(58, 58), (52, 52), (64, 64), (51, 51), (65, 65), (52, 58), (52, 59), (90, 119), (90, 120),
      (120, 90), (120, 120), (89, 89), (64, 65), (64, 64), (90, 89), (200, 254), (200, 253), (300, 313), (300, 314)].map
      (fun d => (classifyHalves 1000000 0 d.1 d.2).1)
    = [.one, .one, .one, .unknown, .straddle, .one, .unknown, .zero, .zero, .zero, .unknown, .straddle, .straddle, .one,
      .straddle, .railcom, .unknown, .railcom, .unknown] := by decide

/-! ### Witnesses: states and operands that meet the hypotheses of each statement -/

theorem witness_ResetAndHardResetEmitInstr :
    (Instr.reset, 0x00#8, 0x01) ∈ [(Instr.reset, 0x00#8, 0x01), (Instr.hardReset, 0x01#8, 0x02)] ∧
    (atOpcode 0 [3, 0, 5]).cur.pos + [5#8].length < (atOpcode 0 [3, 0, 5]).dp.pkt.length :=
  ⟨List.mem_cons_self, by decide⟩

theorem witness_FlagInstructionsReportF :
    (Instr.factoryTest, 0b0000001#7, 0x03) ∈ [(Instr.factoryTest, 0b0000001#7, 0x03), (Instr.setAdvAddr, 0b0000101#7, 0x05),
      (Instr.ackRequest, 0b0000111#7, 0x06)] ∧
    (atOpcode 0 [3, 3]).cur.pos + ([] : List Byte).length < (atOpcode 0 [3, 3]).dp.pkt.length :=
  ⟨List.mem_cons_self, by decide⟩

theorem witness_SetDecoderFlagsReportsRaw :
    (atOpcode 0 [3, 6, 42]).cur.pos + 1 + ([] : List Byte).length < (atOpcode 0 [3, 6, 42]).dp.pkt.length ∧
    (atOpcode 0 [3, 7]).cur.pos < (atOpcode 0 [3, 7]).dp.pkt.length := by decide

theorem witness_ConsistReportsAddressAndDirection :
    (Instr.consistNormal, 0x12#8, 0x07, 0) ∈ [(Instr.consistNormal, 0x12#8, 0x07, 0), (Instr.consistReverse, 0x13#8, 0x08, 1)] ∧
    (atOpcode 0 [3, 0x12, 5]).cur.pos + 1 + ([] : List Byte).length < (atOpcode 0 [3, 0x12, 5]).dp.pkt.length ∧
    (atOpcode 0 [3, 0x12]).cur.pos < (atOpcode 0 [3, 0x12]).dp.pkt.length :=
  ⟨List.mem_cons_self, by decide, by decide⟩

theorem witness_Speed128ReportsStep :
    (atOpcode 0 [3, 0x3F, 0x81]).cur.pos + 1 + ([] : List Byte).length < (atOpcode 0 [3, 0x3F, 0x81]).dp.pkt.length ∧
    (atOpcode 0 [3, 0x3F]).cur.pos < (atOpcode 0 [3, 0x3F]).dp.pkt.length := by decide

theorem witness_RestrictedSpeedAndAnalogFunction :
    (atOpcode 0 [3, 0x3E, 0x95]).cur.pos + 1 + ([] : List Byte).length < (atOpcode 0 [3, 0x3E, 0x95]).dp.pkt.length ∧
    (atOpcode 0 [3, 0x3E]).cur.pos < (atOpcode 0 [3, 0x3E]).dp.pkt.length ∧
    (atOpcode 0 [3, 0x3D, 1, 2]).cur.pos + 2 + ([] : List Byte).length < (atOpcode 0 [3, 0x3D, 1, 2]).dp.pkt.length ∧
    (atOpcode 0 [3, 0x3D, 1]).cur.pos + 1 < (atOpcode 0 [3, 0x3D, 1]).dp.pkt.length ∧
    (atOpcode 0 [3, 0x3D]).cur.pos < (atOpcode 0 [3, 0x3D]).dp.pkt.length := by decide

theorem witness_Speed28ReportsStep :
    (Instr.speedFwd, 0b011#3, 0x0D, 1) ∈ [(Instr.speedRev, 0b010#3, 0x0C, 0), (Instr.speedFwd, 0b011#3, 0x0D, 1)] ∧
    (atOpcode 0 [3, 0x70]).mode.getLsbD 1 = false ∧
    (atOpcode 0 [3, 0x70]).cur.pos + ([] : List Byte).length < (atOpcode 0 [3, 0x70]).dp.pkt.length :=
  ⟨List.mem_cons_of_mem _ List.mem_cons_self, by decide, by decide⟩

theorem witness_Speed14ReportsStepAndF0 :
    (Instr.speedRev, 0b010#3, 0x0C, 0) ∈ [(Instr.speedRev, 0b010#3, 0x0C, 0), (Instr.speedFwd, 0b011#3, 0x0D, 1)] ∧
    (atOpcode 2 [3, 0x51]).mode.getLsbD 1 = true ∧
    (atOpcode 2 [3, 0x51]).cur.pos + ([] : List Byte).length < (atOpcode 2 [3, 0x51]).dp.pkt.length :=
  ⟨List.mem_cons_self, by decide, by decide⟩

theorem witness_FunctionGroupsReportStates :
    ((atOpcode 0 [3, 0x95]).cur.pos + ([] : List Byte).length < (atOpcode 0 [3, 0x95]).dp.pkt.length ∧
      (atOpcode 0 [3, 0x95]).mode.getLsbD 1 = false) ∧
    ((atOpcode 2 [3, 0x95]).cur.pos + ([] : List Byte).length < (atOpcode 2 [3, 0x95]).dp.pkt.length ∧
      (atOpcode 2 [3, 0x95]).mode.getLsbD 1 = true) := by decide

theorem witness_FunctionBytesReportEightStates :
    (Instr.f13F20, 0xDE#8, 0x1B, 13) ∈ [(Instr.f13F20, 0xDE#8, 0x1B, 13), (Instr.f21F28, 0xDF#8, 0x1C, 21),
      (Instr.f29F36, 0xD8#8, 0x15, 29), (Instr.f37F44, 0xD9#8, 0x16, 37), (Instr.f45F52, 0xDA#8, 0x17, 45),
      (Instr.f53F60, 0xDB#8, 0x18, 53), (Instr.f61F68, 0xDC#8, 0x19, 61)] ∧
    (atOpcode 0 [3, 0xDE, 5]).cur.pos + 1 + ([] : List Byte).length < (atOpcode 0 [3, 0xDE, 5]).dp.pkt.length ∧
    (atOpcode 0 [3, 0xDE]).cur.pos < (atOpcode 0 [3, 0xDE]).dp.pkt.length :=
  ⟨List.mem_cons_self, by decide, by decide⟩

theorem witness_BinaryStateReportsAddressAndState :
    (atOpcode 0 [3, 0xC0, 0x85, 2]).cur.pos + 2 + ([] : List Byte).length < (atOpcode 0 [3, 0xC0, 0x85, 2]).dp.pkt.length ∧
    (atOpcode 0 [3, 0xC0, 0x85]).cur.pos + 1 < (atOpcode 0 [3, 0xC0, 0x85]).dp.pkt.length ∧
    (atOpcode 0 [3, 0xC0]).cur.pos < (atOpcode 0 [3, 0xC0]).dp.pkt.length ∧
    (atOpcode 0 [3, 0xDD, 0x85]).cur.pos + 1 + ([] : List Byte).length < (atOpcode 0 [3, 0xDD, 0x85]).dp.pkt.length ∧
    (atOpcode 0 [3, 0xDD]).cur.pos < (atOpcode 0 [3, 0xDD]).dp.pkt.length := by decide

theorem witness_TimeCommandsReportFields :
    (Instr.modelTime, 0x12) ∈ [(Instr.modelTime, 0x12), (Instr.modelDate, 0x13), (Instr.systemTime, 0x14)] ∧
    (atOpcode 0 [3, 0xC1, 30, 1, 2]).cur.pos + 3 + ([] : List Byte).length < (atOpcode 0 [3, 0xC1, 30, 1, 2]).dp.pkt.length ∧
    (atOpcode 0 [3, 0xC1, 30, 1]).cur.pos + 2 < (atOpcode 0 [3, 0xC1, 30, 1]).dp.pkt.length ∧
    (atOpcode 0 [3, 0xC1, 30]).cur.pos + 1 < (atOpcode 0 [3, 0xC1, 30]).dp.pkt.length :=
  ⟨List.mem_cons_self, by decide, by decide, by decide⟩

theorem witness_PomReportsCvAndData :
    (Instr.pomBit, 0b111010#6, 0x21, 2) ∈ [(Instr.pomVerify, 0b111001#6, 0x20, 1), (Instr.pomBit, 0b111010#6, 0x21, 2),
      (Instr.pomWrite, 0b111011#6, 0x22, 3)] ∧
    [0#8, 0#8].length ≤ 2 ∧
    (atOpcode 0 [3, 0xE9, 22, 5]).cur.pos + 2 < (atOpcode 0 [3, 0xE9, 22, 5]).dp.pkt.length ∧
    (atOpcode 0 [3, 0xE9, 22]).cur.pos + 1 < (atOpcode 0 [3, 0xE9, 22]).dp.pkt.length ∧
    (atOpcode 0 [3, 0xE9]).cur.pos < (atOpcode 0 [3, 0xE9]).dp.pkt.length :=
  ⟨List.mem_cons_of_mem _ List.mem_cons_self, by decide, by decide, by decide, by decide⟩

theorem witness_XpomReportsCvAndData :
    (atOpcode 0 [3, 0xE5, 0, 0, 22]).cur.pos + 3 + ([] : List Byte).length < (atOpcode 0 [3, 0xE5, 0, 0, 22]).dp.pkt.length ∧
    (atOpcode 0 [3, 0xE9, 0, 0, 22, 8]).cur.pos + 4 + ([] : List Byte).length
      < (atOpcode 0 [3, 0xE9, 0, 0, 22, 8]).dp.pkt.length ∧
    (atOpcode 0 [3, 0xE9, 0, 0, 22]).cur.pos + 3 < (atOpcode 0 [3, 0xE9, 0, 0, 22]).dp.pkt.length ∧
    ([1, 2, 3, 4, 5] : List Byte) ≠ [] ∧
    (atOpcode 0 [3, 0xED, 0, 0, 22, 1, 2, 3, 4, 5]).cur.pos + 3 + ([1, 2, 3, 4, 5] : List Byte).length
      < (atOpcode 0 [3, 0xED, 0, 0, 22, 1, 2, 3, 4, 5]).dp.pkt.length := by decide

theorem witness_OneByteShortFormsReportTheirCv :
    (Instr.cvAccel, 0x26, 23) ∈ [(Instr.cvAccel, 0x26, 23), (Instr.cvDecel, 0x27, 24)] ∧
    (atOpcode 0 [3, 0xF2, 5]).cur.pos + 1 + ([] : List Byte).length < (atOpcode 0 [3, 0xF2, 5]).dp.pkt.length ∧
    (atOpcode 0 [3, 0xF2]).cur.pos < (atOpcode 0 [3, 0xF2]).dp.pkt.length :=
  ⟨List.mem_cons_self, by decide, by decide⟩

theorem witness_TwoByteShortFormsReportTheirCvs :
    (Instr.cvLongaddr, 0xF4#8, 0x28, 17, 18) ∈ [(Instr.cvLongaddr, 0xF4#8, 0x28, 17, 18), (Instr.cvIndex, 0xF5#8, 0x29, 31, 32)] ∧
    (atOpcode 0 [3, 0xF4, 1, 2]).cur.pos + 2 + ([] : List Byte).length < (atOpcode 0 [3, 0xF4, 1, 2]).dp.pkt.length ∧
    (atOpcode 0 [3, 0xF4, 1]).cur.pos + 1 < (atOpcode 0 [3, 0xF4, 1]).dp.pkt.length ∧
    (atOpcode 0 [3, 0xF4]).cur.pos < (atOpcode 0 [3, 0xF4]).dp.pkt.length :=
  ⟨List.mem_cons_self, by decide, by decide, by decide⟩

theorem witness_ServiceDirectReportsCvAndData :
    (Instr.smDirectVerify, 0b011101#6, 0x30, 1) ∈ [(Instr.smDirectVerify, 0b011101#6, 0x30, 1),
      (Instr.smDirectBit, 0b011110#6, 0x31, 2), (Instr.smDirectWrite, 0b011111#6, 0x32, 3)] ∧
    2 < (packetState 1 0 [0x74, 0, 5]).dp.pkt.length :=
  ⟨List.mem_cons_self, by decide⟩

theorem witness_ServiceRegisterReportsRegister :
    (Instr.smRegWrite, 0b01111#5, 0x34, 1) ∈ [(Instr.smRegVerify, 0b01110#5, 0x33, 0), (Instr.smRegWrite, 0b01111#5, 0x34, 1)] ∧
    1 < (packetState 1 0 [0x7B, 0x22]).dp.pkt.length :=
  ⟨List.mem_cons_of_mem _ List.mem_cons_self, by decide⟩

theorem witness_AccessoryBasicReportsAddresses :
    1 + [0xDF#8].length < (packetState 0 0 [0x81, 0xF8, 0xDF]).dp.pkt.length ∧
    ¬ (∃ e ∈ [0xDF#8].head?, e.toNat / 16 = 14) ∧ ¬ (∃ e ∈ [0xF0#8].head?, e.toNat / 16 = 14) := by
  refine ⟨by decide, ?_, ?_⟩ <;> rintro ⟨e, he, hq⟩ <;> cases he <;> revert hq <;> decide

theorem witness_AccessoryExtendedReportsAddresses :
    ¬ (2 ≤ [0xEC#8].length ∧ ∃ e ∈ [0xEC#8].head?, e.toNat / 16 = 14) ∧
    2 + ([] : List Byte).length < (packetState 0 0 [0x81, 0x71, 5]).dp.pkt.length ∧
    1 < (packetState 0 0 [0x81, 0x71]).dp.pkt.length ∧
    1 + ([] : List Byte).length < (packetState 0 0 [0x81, 0x79]).dp.pkt.length :=
  ⟨fun h => absurd h.1 (by decide), by decide, by decide, by decide⟩

theorem witness_IdleAndSystemCommand :
    1 + ([] : List Byte).length < (packetState 0 0 [0xFF, 0]).dp.pkt.length ∧
    (1#8 ≠ 0 ∧ 1 + ([] : List Byte).length < (packetState 0 0 [0xFF, 1]).dp.pkt.length) := by decide

/-- Two states that differ in everything else, the checksum byte among it. -/
theorem witness_FieldsDependOnPacketAndModeOnly :
    let s := packetState 2 7 [3, 0x70, 0x73]
    let u : State := { packetState 6 7 [3, 0x70, 0x72] with
      running := true, samplerate := 25000, tsErr := true, cur := ⟨5, .mf14, 9⟩ }
    s.dp.pkt.map (fun b => (b.start, b.stop)) = u.dp.pkt.map (fun b => (b.start, b.stop)) ∧
      specContent s.dp.pkt = specContent u.dp.pkt ∧ s.mode.getLsbD 0 = u.mode.getLsbD 0 ∧
      s.mode.getLsbD 1 = u.mode.getLsbD 1 ∧ s.accOffset = u.accOffset := by decide

/-- One packet for each header, at the boundary addresses and the largest sizes. -/
theorem witness_DecodeOfEncode :
    packetWf true .bare (.smDirectBit 3 [255, 0xF7]) = true ∧ packetWf false .bare (.sysCmd 1 (List.replicate 13 0)) = true ∧
    packetWf false .broadcast (.reset (List.replicate 13 0)) = true ∧ packetWf true (.mf7 111) (.reset []) = true ∧
    packetWf false (.mf7 127) (.speedFwd 1 15 []) = true ∧ packetWf false (.mf14 39 255) (.pomBit 3 [255, 7]) = true ∧
    packetWf false (.accPom 63 0 1 7) (.xpomRead 0 [0, 0, 0]) = true ∧
    packetWf false (.accExtPom 63 0 3) (.pomWrite 0 [0]) = true := by decide

theorem witness_DecodedContentIsWellFormed :
    (0xFF#8 :: 1#8 :: List.replicate 13 0#8).length ≤ 15 ∧
    decodePacket false (0xFF#8 :: 1#8 :: List.replicate 13 0#8) = ⟨.bare, .instr (.sysCmd 1 (List.replicate 13 0))⟩ := by
  decide

theorem witness_PacketRunsItsInstruction :
    let s := packetState 0 0 [3, 0x3F, 0x90, 0xAC]
    packetWf s.serviceMode (.mf7 3) (.speed128 [0x90]) = true ∧ s.hasContent (encodePacket (.mf7 3) (.speed128 [0x90])) :=
  ⟨by decide, by decide, .inl ⟨0xAC, by decide⟩⟩

theorem witness_ReservedOpcodesAreUnknown :
    (let s := packetState 0 0 [3, 0x14, 5, 0x12];
      s.cur = Cursor.idle ∧ s.hasContent (encodeHeader (.mf7 3) ++ [0x14, 5]) ∧
        mfHeader (s.mode.getLsbD 0) (.mf7 3) = true ∧ reservedForm 0x14 [5] = true) ∧
    (let s := packetState 0 0 [0, 0xC1, 192, 1];
      s.cur = Cursor.idle ∧ s.hasContent (encodeHeader .broadcast ++ [0xC1, 192]) ∧
        mfHeader (s.mode.getLsbD 0) .broadcast = true ∧ reservedForm 0xC1 [192] = true) ∧
    (let s := packetState 0 0 [0x81, 0xF0, 0xE3, 1];
      s.cur = Cursor.idle ∧ s.hasContent (encodeHeader (.accPom 1 7 0 0) ++ [0xE3]) ∧
        224 ≤ (0xE3#8).toNat ∧ (0xE3#8).toNat ≤ 227) ∧
    (let s := packetState 0 0 [0x81, 0x71, 0xE0, 0, 1];
      s.cur = Cursor.idle ∧ s.hasContent (encodeHeader (.accExtPom 1 7 0) ++ [0xE0, 0]) ∧
        224 ≤ (0xE0#8).toNat ∧ (0xE0#8).toNat ≤ 227 ∧ ([0] : List Byte) ≠ []) :=
  ⟨⟨rfl, ⟨by decide, .inl ⟨0x12, by decide⟩⟩, by decide, by decide⟩, ⟨rfl, ⟨by decide, .inl ⟨1, by decide⟩⟩, by decide, by decide⟩,
    ⟨rfl, ⟨by decide, .inl ⟨1, by decide⟩⟩, by decide, by decide⟩,
    ⟨rfl, ⟨by decide, .inl ⟨1, by decide⟩⟩, by decide, by decide, by decide⟩⟩

/-- The first and last opcodes of the reserved ranges of 43_multifunction.md R227, R233, R253 and 44_cv_access.md R285,
R290, R297. -/
theorem witness_reservedOpcodes : [0x04, 0x05, 0x08, 0x09, 0x0C, 0x0D, 0x10, 0x11, 0x14, 0x3C, 0xC2, 0xD7, 0xE0, 0xE3, 0xF0,
    0xF1, 0xF6, 0xF8, 0xFA, 0xFF].all reservedOpcode = true := by decide

theorem witness_OtherOpcodesAreInstructions :
    reservedForm 0x13 [] = false ∧ reservedForm 0x3D [] = false ∧ reservedForm 0xC1 [191] = false ∧
      (0xC1#8 = 0xC1#8 → ([191] : List Byte) ≠ []) ∧ reservedForm 0xE4 [] = false ∧ reservedForm 0xF9 [] = false := by decide

/-- Each clause, at the first and last addresses of its range. -/
theorem witness_PacketsWithoutInstruction :
    (mfHeader false (.mf7 127) = true ∧ (packetState 0 0 [127]).hasContent (encodeHeader (.mf7 127))) ∧
    (mfHeader true (.mf7 111) = true ∧ (packetState 1 0 [111, 1]).hasContent (encodeHeader (.mf7 111))) ∧
    (mfHeader false (.mf14 39 255) = true ∧ (packetState 0 0 [231, 255, 0xC1, 1]).hasContent (encodeHeader (.mf14 39 255) ++ [0xC1])) ∧
    (128 ≤ (128#8).toNat ∧ (128#8).toNat ≤ 231 ∧ (packetState 0 0 [128]).hasContent [128]) ∧
    (128 ≤ (231#8).toNat ∧ (231#8).toNat ≤ 231 ∧ (packetState 0 0 [231, 1]).hasContent [231]) ∧
    (232 ≤ (232#8).toNat ∧ (232#8).toNat ≤ 254 ∧ (packetState 0 0 [232]).hasContent [232]) ∧
    (232 ≤ (254#8).toNat ∧ (254#8).toNat ≤ 254 ∧ (packetState 0 0 [254, 0, 1]).hasContent [254, 0]) ∧
    (packetState 0 0 [0xFF]).hasContent [0xFF] ∧
    (128 ≤ (191#8).toNat ∧ (191#8).toNat ≤ 191 ∧ (0x70#8).getLsbD 7 = false ∧ (0x70#8).getLsbD 3 = false ∧
      (0x70#8).getLsbD 0 = false ∧ (packetState 0 0 [191, 0x70, 1]).hasContent [191, 0x70]) ∧
    (112 ≤ (115#8).toNat ∧ (115#8).toNat ≤ 115 ∧ (packetState 1 0 [115, 0, 5, 1]).mode.getLsbD 0 = true ∧
      (packetState 1 0 [115, 0, 5, 1]).hasContent [115, 0, 5]) ∧
    (112 ≤ (112#8).toNat ∧ (112#8).toNat ≤ 127 ∧ (packetState 1 0 [112]).mode.getLsbD 0 = true ∧
      ([] : List Byte).length ≠ 1 ∧ ([] : List Byte).length ≠ 2 ∧ (packetState 1 0 [112]).hasContent [112]) ∧
    (112 ≤ (127#8).toNat ∧ (127#8).toNat ≤ 127 ∧ ([0, 5, 1] : List Byte).length ≠ 1 ∧ ([0, 5, 1] : List Byte).length ≠ 2 ∧
      (packetState 1 0 [127, 0, 5, 1, 9]).hasContent [127, 0, 5, 1]) ∧
    (packetState 0 0 []).cur = Cursor.idle := by
  refine ⟨⟨by decide, by decide, .inr (by decide)⟩, ⟨by decide, by decide, .inl ⟨1, by decide⟩⟩,
    ⟨by decide, by decide, .inl ⟨1, by decide⟩⟩, ⟨by decide, by decide, by decide, .inr (by decide)⟩,
    ⟨by decide, by decide, by decide, .inl ⟨1, by decide⟩⟩, ⟨by decide, by decide, by decide, .inr (by decide)⟩,
    ⟨by decide, by decide, by decide, .inl ⟨1, by decide⟩⟩, ⟨by decide, .inr (by decide)⟩,
    ⟨by decide, by decide, by decide, by decide, by decide, by decide, .inl ⟨1, by decide⟩⟩,
    ⟨by decide, by decide, by decide, by decide, .inl ⟨1, by decide⟩⟩,
    ⟨by decide, by decide, by decide, by decide, by decide, by decide, .inr (by decide)⟩,
    ⟨by decide, by decide, by decide, by decide, by decide, .inl ⟨9, by decide⟩⟩, rfl⟩

/-- A running block at 1 MHz before the closing edge of the packet end bit of `[03 00 03]`; the window's halves are 58
samples and `last - 5458`. -/
def closing (last : Nat) (polarity : Bool) : State :=
  { State.reset with
    running := true
    samplerate := 1000000
    dp := { Datapath.reset with
      lastValid := true, lastTs := 5458, pol := polarity, phase := .stop, t1 := 5400, t2 := 5458
      fsm := .data, bitcnt := 8, acc := 3, byteStart := 3800, byteEnd := 5400
      pkt := [⟨3, 200, 1800⟩, ⟨0, 2000, 3600⟩] }
    host := ⟨[.edge (BitVec.ofNat 64 last) true], [], []⟩ }

theorem witness_StepRunsTheDecodedInstruction :
    let s := closing 5516 true
    s.running = true ∧ s.mode.getLsbD 2 = false ∧ s.outq = [] ∧ s.host.script = .edge 5516 true :: [] ∧
      (s.dp.lastValid = true → s.dp.lastTs < 5516) ∧ s.dp.phase = .stop ∧ s.dp.fsm = .data ∧ s.dp.bitcnt = 8 ∧
      s.dp.pkt.length < 16 ∧ (classify s s.dp.t1 s.dp.t2 5516).1 = .one ∧
      decodePacket (s.mode.getLsbD 0) (specContent (s.dp.pkt ++ [⟨s.dp.acc, s.dp.byteStart, s.dp.byteEnd⟩]))
        = ⟨.mf7 3, .instr (.reset [])⟩ := by decide

/-- Words of one byte and of twelve. -/
theorem witness_PlacedWordIsRunNext :
    (8 ≤ 96 ∧ decodeTableWord 8 0x00 = some (.reset [])) ∧
    (96 ≤ 96 ∧ decodeTableWord 96 0xFF0300 = some (.reset [3, 0xFF, 0, 0, 0, 0, 0, 0, 0, 0, 0])) := by decide

/-- A running or stopped block with the filter on, an edge held at sample 100 with 3 samples deleted, and one edge to
come: at 1 MHz a pulse of 4 samples is the longest short one (SHORT_THR_NS = 4000). -/
def holding (running held : Bool) (next : Ts) : State :=
  { State.reset with
    running := running
    samplerate := 1000000
    mode := 4
    dp := { Datapath.reset with
      lastValid := true, lastTs := 100, pendValid := held, pendTs := 100, pendLevel := true, accShort := 3 }
    host := ⟨[.edge next false], [], []⟩ }

theorem witness_EdgeStepFiltersAndDelivers :
    (∀ s ∈ [holding false false 1, holding true false 100, holding true false 101, holding true true 104,
      holding true true 105, closing 5516 true], s.outq = [] ∧ s.host.script.length = 1) ∧
    (holding false false 1).running = false ∧
    ((holding true false 100).running = true ∧ (holding true false 100).dp.lastValid = true ∧
      100 ≤ (holding true false 100).dp.lastTs) ∧
    ((closing 5516 true).running = true ∧ (closing 5516 true).mode.getLsbD 2 = false ∧
      (closing 5516 true).dp.lastTs < 5516) ∧
    ((holding true false 101).running = true ∧ (holding true false 101).mode.getLsbD 2 = true ∧
      (holding true false 101).dp.pendValid = false ∧ (holding true false 101).dp.lastTs < 101) ∧
    (∀ ts ∈ [(104 : Ts), 105], (holding true true ts).running = true ∧ (holding true true ts).mode.getLsbD 2 = true ∧
      (holding true true ts).dp.lastTs < ts ∧ (holding true true ts).dp.pendValid = true ∧
      (holding true true ts).dp.pendTs < ts ∧ 0 < (holding true true ts).samplerate.toNat) ∧
    us 1000000 4 ≤ (4000 : ℚ) / 1000 ∧ (4000 : ℚ) / 1000 < us 1000000 5 := by
  refine ⟨by decide, by decide, by decide, by decide, by decide, ?_, ?_, ?_⟩
  · intro ts h
    simp only [List.mem_cons, List.not_mem_nil, or_false] at h
    obtain rfl | rfl := h <;> decide
  all_goals norm_num [us]

theorem witness_DeliveredEdgeFillsTheWindow :
    (State.reset.dp.phase = .start ∧ true = State.reset.dp.pol) ∧ (State.reset.dp.phase = .start ∧ false ≠ State.reset.dp.pol) ∧
    (let s : State := { State.reset with dp := { Datapath.reset with phase := .mid, t1 := 5 } };
      s.dp.phase = .mid) ∧
    (closing 5516 true).dp.phase = .stop := by decide

theorem witness_ClassesAreTheExactRationalOnes : ((5 : Ts) ≤ 5 ∧ (5 : Ts) ≤ 0xFFFFFFFFFFFFFFFF) ∧ 0 < 1 := by decide

theorem witness_SampleRateDecidesReachableClasses :
    231 ≤ 500 ∧ ((25000 ≤ 25000 ∧ 25000 ≤ 31249) ∧ (25000 ≤ 31249 ∧ 31249 ≤ 31249)) ∧
      ((33334 ≤ 33334 ∧ 33334 ≤ 33613) ∧ (38462 ≤ 46874 ∧ 46874 ≤ 46874)) ∧
      ((57693 ≤ 57693 ∧ 57693 ≤ 62499) ∧ (76924 ≤ 78124 ∧ 78124 ≤ 78124)) ∧ 83334 ≤ 83334 := by decide

theorem witness_WindowAdvancesByClass :
    WindowClass.railcom ∈ [WindowClass.one, .zero, .railcom] ∧ true = Datapath.reset.pol ∧ false ≠ Datapath.reset.pol := by
  decide

/-- A block in PRE after `n` Ones. -/
def inPreamble (n : Nat) : State :=
  { State.reset with dp := { Datapath.reset with fsm := .pre, preCnt := BitVec.ofNat 16 n, preStart := 10 } }

theorem witness_PreambleBits :
    State.reset.dp.fsm = .wait ∧ ((inPreamble 10).dp.fsm = .pre ∧ 10 ≤ (inPreamble 10).dp.preCnt.toNat) ∧
    ((inPreamble 9).dp.fsm = .pre ∧ (inPreamble 9).dp.preCnt.toNat < 10) := by decide

/-- A block in DATA with `n` bytes in the buffer and `k` bits of the next. -/
def inData (n k : Nat) : State :=
  { State.reset with dp := { Datapath.reset with fsm := .data, bitcnt := k, acc := 5, pkt := bytesIn 0 (List.replicate n 7) } }

/-- Alternate Zeros are stretched. -/
theorem witness_EightBitsMakeAByte :
    ((inData 0 7).dp.fsm = .data ∧ (inData 0 7).dp.bitcnt < 8) ∧
    (inData 0 0).dp.fsm = .data ∧ (inData 0 0).dp.bitcnt = 0 ∧
    ([⟨true, false, 0, 9⟩, ⟨false, true, 9, 99⟩, ⟨false, false, 99, 120⟩, ⟨true, false, 120, 130⟩, ⟨false, true, 130, 400⟩,
      ⟨false, false, 400, 420⟩, ⟨false, true, 420, 500⟩, ⟨false, false, 500, 520⟩] : List LineBit).map LineBit.bit
      = byteBits 0x90 := by decide

theorem witness_MarkerBits :
    ((inData 16 8).dp.fsm = .data ∧ (inData 16 8).dp.bitcnt = 8 ∧ (inData 16 8).dp.pkt.length = 16) ∧
    ((inData 15 8).dp.fsm = .data ∧ (inData 15 8).dp.bitcnt = 8 ∧ (inData 15 8).dp.pkt.length < 16) := by decide

/-- Packets of one byte and of two. -/
theorem witness_FinaliseEmitsInOrder :
    ((packetState 0 0 [3]).cur = Cursor.idle ∧ (packetState 0 0 [3]).dp.pkt ≠ []) ∧
    ((packetState 0 0 [3, 3]).cur = Cursor.idle ∧ (packetState 0 0 [3, 3]).dp.pkt ≠ []) := by decide

/-- The shortest preamble, with one byte and with sixteen. -/
theorem witness_FramerReadsWhatTheLineCarries :
    State.reset.dp.fsm = .wait ∧ 10 ≤ 10 ∧
    (([0x3F] : List Byte) ≠ [] ∧ ((List.replicate 10 true ++ false :: lineBits [0x3F]).map fun b =>
      (⟨b, !b, 0, 9⟩ : LineBit)).map LineBit.bit = List.replicate 10 true ++ false :: lineBits [0x3F]) ∧
    (List.replicate 16 0x3F#8 ≠ [] ∧ (List.replicate 16 0x3F#8).length ≤ 16 ∧
      ((List.replicate 10 true ++ false :: lineBits (List.replicate 16 0x3F)).map fun b =>
        (⟨b, false, 0, 9⟩ : LineBit)).map LineBit.bit
        = List.replicate 10 true ++ false :: lineBits (List.replicate 16 0x3F)) := by
  refine ⟨by decide, by decide, by decide, by decide, by decide, ?_⟩
  rw [List.map_map]
  exact List.map_id _

theorem witness_ControlWriteResetsOrStarts :
    (2#32).getLsbD 1 = true ∧ ((1#32).getLsbD 1 = false ∧ (1#32).getLsbD 0 = true ∧ State.reset.running = false) ∧
    (let s : State := { State.reset with samplerate := 24999 };
      s.samplerate.toNat < 25000) ∧
    (let s : State := { State.reset with samplerate := 25000, tolPm := 501 };
      s.running = false ∧ 500 < s.tolPm.toNat) ∧
    (let s : State := { State.reset with samplerate := 25000, tolPm := 500 };
      s.running = false ∧ 25000 ≤ s.samplerate.toNat ∧ s.tolPm.toNat ≤ 500) ∧
    ((4#32).getLsbD 1 = false ∧ (4#32).getLsbD 0 = false) ∧ (closing 5516 true).running = true := by decide

theorem witness_ConfigurationRegistersHoldTheirBits :
    (0x0C, 2 ^ 10) ∈ [(0x08, 2 ^ 32), (0x0C, 2 ^ 10), (0x10, 2 ^ 32), (0x14, 2 ^ 3), (0x18, 2 ^ 16)] ∧
    State.reset.running = false ∧ (closing 5516 true).running = true := by decide

theorem witness_MisalignedAndReservedOffsets :
    (1 < 256 ∧ 1 % 4 ≠ 0) ∧ (0x1C < 256 ∧ 0x1C ≤ 0x1C) ∧ (255 < 256 ∧ (255 % 4 ≠ 0 ∨ 0x1C ≤ 255)) := by decide

theorem witness_OffsetsOutsideTheSpaceFault : 256 ≤ 256 := by decide

/-- A running block with one record pending and the given interactions to come. -/
def pending (acts : List HostAct) : State :=
  { closing 5516 true with outq := [⟨2, 0, 9, 0, 0, 0, 0⟩], host := ⟨acts, [], []⟩ }

theorem witness_OldestRecordLeavesFirst :
    (pending [.accept]).outq = ⟨2, 0, 9, 0, 0, 0, 0⟩ :: [] ∧ (pending [.accept]).host.script = .accept :: [] := by decide

theorem witness_PendingRecordsHoldEdgesBack :
    ((pending [.edge 5516 true, .accept]).running = true ∧ (pending [.edge 5516 true, .accept]).outq ≠ [] ∧
      ∃ t, step (pending [.edge 5516 true, .accept]) = .next t) ∧
    ((pending [.edge 5516 true]).outq ≠ [] ∧
      ∀ a ∈ (pending [.edge 5516 true]).host.script, ∃ ts level, a = .edge ts level) ∧
    ((pending [.edge 5516 true, .hardReset, .accept]).host.script = [.edge 5516 true] ++ .hardReset :: [.accept] ∧
      (∀ b ∈ [HostAct.edge 5516 true], ∃ ts level, b = .edge ts level) ∧
      (pending [.edge 5516 true, .hardReset, .accept]).outq ≠ [] ∧ ∀ ts level, HostAct.hardReset ≠ .edge ts level) ∧
    ((closing 5516 true).host.script = [] ++ .edge 5516 true :: [] ∧ (closing 5516 true).outq = []) := by
  refine ⟨⟨rfl, by decide, _, rfl⟩, ⟨by decide, ?_⟩, ⟨rfl, ?_, by decide, fun _ _ h => by cases h⟩, rfl, rfl⟩
  · intro a ha
    simp [pending] at ha
    exact ⟨_, _, ha⟩
  · intro a ha
    simp at ha
    exact ⟨_, _, ha⟩

theorem witness_RecordStreamOnlyGrows :
    (∀ a ∈ (closing 5516 true).host.script, a.restarts = false) ∧ ∃ t, step (closing 5516 true) = .next t :=
  ⟨by decide, _, rfl⟩

theorem witness_RunsInsideTheSpaceGoOn : (pending [.memRead 255, .memWrite 252 1, .accept]).hostInSpace = true := by decide

theorem witness_ConfigurationIsConstantInARun :
    let s := pending [.memWrite 0x08 5]
    ∃ t, s.running = true ∧ t.running = true ∧ step s = .next t :=
  ⟨_, rfl, rfl, rfl⟩

/-- TS_ERR cleared by a soft reset, CFG_ERR by a start. -/
theorem witness_ErrorBitsAreSticky :
    (let s : State := { pending [.memWrite 0x00 2] with tsErr := true };
      ∃ t, step s = .next t ∧ s.tsErr = true ∧ t.tsErr = false) ∧
    (let s : State := { State.reset with samplerate := 25000, cfgErr := true, host := ⟨[.memWrite 0x00 1], [], []⟩ };
      ∃ t, step s = .next t ∧ s.cfgErr = true ∧ t.cfgErr = false) :=
  ⟨⟨_, rfl, rfl, rfl⟩, ⟨_, rfl, rfl, rfl⟩⟩

/-- Halves of 58 and 92 us are a STRADDLE (40_classifier.md R122). -/
theorem witness_PolarityChangesOnlyByStraddle :
    (closing 5550 true).Configured ∧ ∃ t, step (closing 5550 true) = .next t ∧ t.dp.pol ≠ (closing 5550 true).dp.pol := by
  refine ⟨by unfold State.Configured; decide, _, rfl, by decide⟩

theorem witness_StepKeepsConfiguredAndFramed :
    (closing 5516 true).Configured ∧ (closing 5516 true).Framed ∧ ∃ t, step (closing 5516 true) = .next t :=
  ⟨by unfold State.Configured; decide, by unfold State.Framed; decide, _, rfl⟩

theorem witness_StepKeepsTimeAndRangesOrdered :
    (closing 5516 true).Configured ∧ (closing 5516 true).Framed ∧ (closing 5516 true).dp.Timed ∧
      (closing 5516 true).RangesOrdered ∧ ∃ t, step (closing 5516 true) = .next t := by
  refine ⟨by unfold State.Configured; decide, by unfold State.Framed; decide, ?_,
    by unfold State.RangesOrdered; decide, _, rfl⟩
  simp only [Datapath.Timed, Datapath.framed, Datapath.past, inOrder]
  decide

theorem witness_StepKeepsRecordsLegal :
    (closing 5516 true).Framed ∧ (closing 5516 true).RecordsLegal ∧ (pending [.accept]).RecordsLegal ∧
      ∃ t, step (closing 5516 true) = .next t := by
  refine ⟨by unfold State.Framed; decide, ?_, ?_, _, rfl⟩ <;>
    simp [State.RecordsLegal, State.stream, pending, closing, State.reset, Record.legal]

end Sys2Proof.Tests
end

section
namespace Sys2Proof.Machine

/-! ### The classifier over rational microseconds -/

/-- The answer of the classifier in each of the five cases, in the order of 40_classifier.md R118. -/
theorem classifyHalves_cases (fs tol d1 d2 : Nat) :
    (isOne fs tol d1 d2 = true ∧ classifyHalves fs tol d1 d2 = (.one, false)) ∨
    (isOne fs tol d1 d2 = false ∧ isZero fs d1 d2 = true ∧
      classifyHalves fs tol d1 d2 = (.zero, isStretched fs d1 d2)) ∨
    (isOne fs tol d1 d2 = false ∧ isZero fs d1 d2 = false ∧ isStraddle fs tol d1 d2 = true ∧
      classifyHalves fs tol d1 d2 = (.straddle, false)) ∨
    (isOne fs tol d1 d2 = false ∧ isZero fs d1 d2 = false ∧ isStraddle fs tol d1 d2 = false ∧
      isRailcom fs d1 d2 = true ∧ classifyHalves fs tol d1 d2 = (.railcom, false)) ∨
    (isOne fs tol d1 d2 = false ∧ isZero fs d1 d2 = false ∧ isStraddle fs tol d1 d2 = false ∧
      isRailcom fs d1 d2 = false ∧ classifyHalves fs tol d1 d2 = (.unknown, false)) := by
  unfold classifyHalves
  cases isOne fs tol d1 d2
  · cases isZero fs d1 d2
    · cases isStraddle fs tol d1 d2
      · cases isRailcom fs d1 d2 <;> simp
      · simp
    · simp
  · simp

/-- A ONE is never stretched (40_classifier.md R121). -/
theorem classify_one_not_stretched {s : State} {t1 t2 t3 : Ts} (h : (classify s t1 t2 t3).1 = .one) :
    (classify s t1 t2 t3).2 = false := by
  unfold classify at h ⊢
  obtain ⟨-, hc⟩ | ⟨-, -, hc⟩ | ⟨-, -, -, hc⟩ | ⟨-, -, -, -, hc⟩ | ⟨-, -, -, -, hc⟩ :=
    classifyHalves_cases s.samplerate.toNat s.tolPm.toNat (t2.toNat - t1.toNat) (t3.toNat - t2.toNat)
  · rw [hc]
  · rw [hc] at h
    cases h
  · rw [hc]
  · rw [hc]
  · rw [hc]

/-- For edges in order the halves are the differences of the timestamps, without wrap-around. -/
theorem classify_eq_of_le (s : State) {t1 t2 t3 : Ts} (h12 : t1 ≤ t2) (h23 : t2 ≤ t3) :
    classify s t1 t2 t3 =
      classifyHalves s.samplerate.toNat s.tolPm.toNat (t2 - t1).toNat (t3 - t2).toNat := by
  rw [BitVec.toNat_sub_of_le h12, BitVec.toNat_sub_of_le h23]
  rfl

/-- `us` is linear in the number of samples. -/
theorem us_add (fs d1 d2 : Nat) : us fs d1 + us fs d2 = us fs (d1 + d2) := by
  unfold us
  push_cast
  ring

theorem us_mono (fs : Nat) : Monotone (us fs) := by
  intro a b hab
  unfold us
  gcongr

/-- The two truncated differences add up to the absolute difference. -/
theorem abs_us_sub (fs d1 d2 : Nat) : |us fs d1 - us fs d2| = us fs (d1 - d2 + (d2 - d1)) := by
  obtain h | h := Nat.le_total d1 d2
  · have hsplit : us fs d1 + us fs (d2 - d1) = us fs d2 := by rw [us_add, Nat.add_sub_of_le h]
    rw [abs_of_nonpos (sub_nonpos.2 (us_mono fs h)), Nat.sub_eq_zero_of_le h, Nat.zero_add]
    linarith
  · have hsplit : us fs d2 + us fs (d1 - d2) = us fs d1 := by rw [us_add, Nat.add_sub_of_le h]
    rw [abs_of_nonneg (sub_nonneg.2 (us_mono fs h)), Nat.sub_eq_zero_of_le h, Nat.add_zero]
    linarith

section
variable {fs : Nat} (hfs : 0 < fs)
include hfs

theorem usLe_iff (d x : Nat) : usLe fs d x = true ↔ us fs d ≤ x := by
  have hq : (0 : ℚ) < fs := Nat.cast_pos.2 hfs
  rw [usLe, decide_eq_true_iff, us, div_le_iff₀ hq]
  exact_mod_cast Iff.rfl

theorem usGe_iff (d x : Nat) : usGe fs d x = true ↔ (x : ℚ) ≤ us fs d := by
  have hq : (0 : ℚ) < fs := Nat.cast_pos.2 hfs
  rw [usGe, decide_eq_true_iff, us, le_div_iff₀ hq]
  exact_mod_cast Iff.rfl

/-- The bounds on one half of a ONE (40_classifier.md R119). -/
theorem oneHalf_iff (tol d : Nat) :
    oneHalf fs tol d = true ↔
      52 * (1 - (tol : ℚ) / 1000) ≤ us fs d ∧ us fs d ≤ 64 * (1 + (tol : ℚ) / 1000) := by
  have hq : (0 : ℚ) < fs := Nat.cast_pos.2 hfs
  rw [oneHalf, Bool.and_eq_true, decide_eq_true_iff, decide_eq_true_iff, us, le_div_iff₀ hq, div_le_iff₀ hq,
    ← Nat.cast_le (α := ℚ), ← Nat.cast_le (α := ℚ)]
  push_cast
  constructor <;> rintro ⟨hlo, hhi⟩ <;> constructor <;> linarith

/-- The bound on the difference of the halves of a ONE (40_classifier.md R119). -/
theorem oneDifference_iff (tol d1 d2 : Nat) :
    oneDifference fs tol d1 d2 = true ↔
      |us fs d1 - us fs d2| ≤ max 6 (2 * ((tol : ℚ) / 1000) * (us fs d1 + us fs d2)) := by
  have hq : (0 : ℚ) < fs := Nat.cast_pos.2 hfs
  have hrel : (d1 - d2 + (d2 - d1)) * 1000 ≤ 2 * tol * (d1 + d2) ↔
      us fs (d1 - d2 + (d2 - d1)) ≤ 2 * ((tol : ℚ) / 1000) * us fs (d1 + d2) := by
    generalize d1 - d2 + (d2 - d1) = diff
    rw [us, us, ← mul_div_assoc, div_le_div_iff_of_pos_right hq, ← Nat.cast_le (α := ℚ)]
    push_cast
    constructor <;> intro h <;> linarith
  rw [abs_us_sub, us_add, le_max_iff, ← hrel, oneDifference, Bool.or_eq_true, decide_eq_true_iff, usLe_iff hfs]
  rfl

theorem isOne_iff (tol d1 d2 : Nat) :
    isOne fs tol d1 d2 = true ↔ specOne ((tol : ℚ) / 1000) (us fs d1) (us fs d2) := by
  rw [isOne, Bool.and_eq_true, Bool.and_eq_true, oneHalf_iff hfs, oneHalf_iff hfs, oneDifference_iff hfs, specOne,
    and_assoc]

theorem isZero_iff (d1 d2 : Nat) : isZero fs d1 d2 = true ↔ specZero (us fs d1) (us fs d2) := by
  simp only [isZero, specZero, Bool.or_eq_true, Bool.and_eq_true, usLe_iff hfs, usGe_iff hfs, Nat.cast_ofNat, and_assoc]

theorem isStretched_iff (d1 d2 : Nat) : isStretched fs d1 d2 = true ↔ 119 < max (us fs d1) (us fs d2) := by
  rw [← (us_mono fs).map_max, isStretched, Bool.not_eq_true', ← Bool.not_eq_true, usLe_iff hfs, not_le,
    Nat.cast_ofNat]

theorem isStraddle_iff (tol d1 d2 : Nat) :
    isStraddle fs tol d1 d2 = true ↔ specStraddle ((tol : ℚ) / 1000) (us fs d1) (us fs d2) := by
  have hq : (0 : ℚ) < fs := Nat.cast_pos.2 hfs
  have hlow : 128 * (1000 + tol) * fs < (d1 + d2) * 1000000000 ↔
      128 * (1 + (tol : ℚ) / 1000) < us fs (d1 + d2) := by
    rw [us, lt_div_iff₀ hq, ← Nat.cast_lt (α := ℚ)]
    push_cast
    constructor <;> intro h <;> linarith
  rw [specStraddle, us_add, ← hlow, isStraddle, Bool.and_eq_true, decide_eq_true_iff, Bool.not_eq_true',
    ← Bool.not_eq_true, usGe_iff hfs, not_le, Nat.cast_ofNat]

theorem isRailcom_iff (d1 d2 : Nat) : isRailcom fs d1 d2 = true ↔ specRailcom (us fs d1) (us fs d2) := by
  rw [isRailcom, specRailcom, us_add, Bool.and_eq_true, usGe_iff hfs, usLe_iff hfs, Nat.cast_ofNat, Nat.cast_ofNat]

end

/-- Settles O35: each integer condition is the rational one, multiplied out, and the classifier takes them in the order
of 40_classifier.md R118. -/
theorem classesAreTheExactRationalOnes : Obligations.ClassesAreTheExactRationalOnes := by
  refine ⟨fun s _ _ _ => classify_eq_of_le s, fun fs tol d1 d2 hfs => ?_⟩
  dsimp only
  rw [← isOne_iff hfs, ← isZero_iff hfs, ← isStraddle_iff hfs, ← isRailcom_iff hfs, ← isStretched_iff hfs]
  obtain ⟨h1, hc⟩ | ⟨h1, h0, hc⟩ | ⟨h1, h0, hs, hc⟩ | ⟨h1, h0, hs, hr, hc⟩ | ⟨h1, h0, hs, hr, hc⟩ :=
    classifyHalves_cases fs tol d1 d2
  · simp [hc, h1]
  · simp [hc, h1, h0]
  · simp [hc, h1, h0, hs]
  · simp [hc, h1, h0, hs, hr]
  · simp [hc, h1, h0, hs, hr]

end Sys2Proof.Machine
end

section
/-! The packet end: what a header, the bytes and the checksum are reported by, and the step that accepts the closing edge
of the packet end bit (00_scope.md R9, 41_framer.md R154 to R160). -/

namespace Sys2Proof.Machine

/-! ### Addresses as numbers -/

/-- Concatenated bit fields as a number. -/
theorem toNat_append_eq_add {m n : Nat} (x : BitVec m) (y : BitVec n) :
    (x ++ y).toNat = x.toNat * 2 ^ n + y.toNat := by
  rw [BitVec.toNat_append, ← Nat.shiftLeft_add_eq_or_of_lt y.isLt, Nat.shiftLeft_eq]

theorem accDecoder_toNat (lo : BitVec 6) (hi : BitVec 3) :
    (accDecoder lo hi).toNat = (7 - hi.toNat) * 64 + lo.toNat := by
  rw [accDecoder, toNat_append_eq_add, BitVec.toNat_not]
  rfl

theorem accRaw_toNat (lo : BitVec 6) (hi : BitVec 3) (port : BitVec 2) :
    (accRaw lo hi port).toNat = (7 - hi.toNat) * 256 + lo.toNat * 4 + port.toNat := by
  rw [accRaw, toNat_append_eq_add, toNat_append_eq_add, BitVec.toNat_not]
  omega

/-- The user address is the signed sum, in 32-bit two's complement (42_dispatch.md R201). -/
theorem accUser_eq_ofInt (raw : BitVec 11) (offset : BitVec 16) :
    accUser raw offset = BitVec.ofInt 32 (raw.toNat - 3 + offset.toInt) := by
  rw [accUser, arg_eq_ofNat, BitVec.ofInt_add, BitVec.sub_eq_add_neg, Int.sub_eq_add_neg, BitVec.ofInt_add]
  rfl

theorem accUser_eq_ofNat (raw : BitVec 11) (offset : BitVec 16) :
    accUser raw offset = BitVec.ofNat 32 (BitVec.ofInt 32 (raw.toNat - 3 + offset.toInt)).toNat := by
  rw [accUser_eq_ofInt, BitVec.ofNat_toNat, BitVec.setWidth_eq]

/-! ### Records of a packet -/

/-- A header is reported by the records the rules state. -/
theorem headerFields_records (s : State) (h : Header) :
    (headerFields h s.accOffset).map (fieldRecord s.dp.pkt) = specHeader s h := by
  cases h with
  | bare => rfl
  | broadcast => exact congrArg (· :: []) (fieldRecord_eq s 0 0 0x01 0 0 0)
  | mf7 a =>
    rw [headerFields, arg_eq_ofNat]
    exact congrArg (· :: []) (fieldRecord_eq s 0 0 0x01 1 a.toNat 0)
  | mf14 hi lo =>
    rw [headerFields, arg_eq_ofNat, toNat_append_eq_add]
    exact congrArg (· :: []) (fieldRecord_eq s 0 1 0x01 2 (hi.toNat * 256 + lo.toNat) 0)
  | reserved a =>
    rw [headerFields, arg_eq_ofNat]
    exact congrArg (· :: []) (fieldRecord_eq s 0 0 0x01 3 a.toNat 0)
  | idleSystem => exact congrArg (· :: []) (fieldRecord_eq s 0 0 0x01 4 255 0)
  | accPom lo hi c ddd =>
    rw [headerFields, arg_eq_ofNat, arg_eq_ofNat, arg_eq_ofNat, accDecoder_toNat]
    exact congrArg₂ (fun a b => [a, b]) (fieldRecord_eq s 0 1 0x32 ((7 - hi.toNat) * 64 + lo.toNat) 0 0)
      (fieldRecord_eq s 1 1 0x33 c.toNat ddd.toNat 0)
  | accExtPom lo hi port =>
    rw [headerFields, accUser_eq_ofNat, arg_eq_ofNat, accRaw_toNat]
    exact congrArg (· :: []) (fieldRecord_eq s 0 1 0x34 _ _ 0)

/-- The content the decoder gets is the one the rules state (42_dispatch.md R180). -/
theorem contentBytes_eq_specContent (pkt : List PktByte) : contentBytes pkt = specContent pkt := by
  match pkt with
  | [] => rfl
  | [b] => rfl
  | a :: b :: rest => simp [contentBytes, specContent, List.map_dropLast]

/-- One BYTE record for each byte, in index order (41_framer.md R156). -/
theorem byteRecords_eq_mapIdx (i : Nat) (pkt : List PktByte) :
    byteRecords i pkt = pkt.mapIdx fun k b =>
      (⟨5, b.start, b.stop, BitVec.ofNat 32 b.val.toNat, BitVec.ofNat 32 (i + k), 0, 0⟩ : Record) := by
  induction pkt generalizing i with
  | nil => rfl
  | cons b rest ih => simp [byteRecords, ih, mkRecord, kindByte, arg_eq_ofNat, argNat, Nat.add_assoc, Nat.add_comm 1]

theorem xorBytes_cons (b : Byte) (bytes : List Byte) : xorBytes (b :: bytes) = b ^^^ xorBytes bytes := by
  have : Std.Associative (α := Byte) (· ^^^ ·) := ⟨BitVec.xor_assoc⟩
  unfold xorBytes
  rw [List.foldl_cons, BitVec.xor_comm, List.foldl_assoc (op := (· ^^^ ·))]

/-- The computed sum is the XOR of the bytes before the last (41_framer.md R157). -/
theorem computedXor_append (bytes : List Byte) (last : Byte) : computedXor (bytes ++ [last]) = xorBytes bytes := by
  induction bytes with
  | nil => rfl
  | cons b rest ih =>
    rw [xorBytes_cons, ← ih]
    cases rest <;> rfl

/-- The verdict and both sums of at least two bytes (41_framer.md R157, R158). -/
theorem checksum_append {bytes : List Byte} (h : bytes ≠ []) (last : Byte) :
    checksum (bytes ++ [last]) = (if xorBytes bytes = last then verdictOk else verdictFail, xorBytes bytes, last) := by
  have hlast : (bytes ++ [last]).getLastD 0 = last := by simp
  obtain ⟨a, b, rest, hab⟩ : ∃ a b rest, bytes ++ [last] = a :: b :: rest := by
    cases bytes with
    | nil => exact absurd rfl h
    | cons a tail => cases tail <;> exact ⟨_, _, _, rfl⟩
  rw [hab, checksum, ← hab, hlast, computedXor_append]

/-- The CHECKSUM record of a packet whose last byte is `last` (41_framer.md R157 to R159). -/
theorem checksumRecord_append (pkt : List PktByte) (last : PktByte) :
    checksumRecord (pkt ++ [last]) =
      if pkt = [] then ⟨7, last.start, last.stop, 2, 0, 0, 0⟩
      else ⟨7, last.start, last.stop, if xorBytes (pkt.map PktByte.val) = last.val then 0 else 1,
        BitVec.ofNat 32 (xorBytes (pkt.map PktByte.val)).toNat, BitVec.ofNat 32 last.val.toNat, 0⟩ := by
  split
  next h =>
    subst h
    rfl
  next h =>
    have hmap : pkt.map PktByte.val ≠ [] := by simpa using h
    simp [checksumRecord, checksum_append hmap, mkRecord, kindChecksum, arg_eq_ofNat, verdictOk, verdictFail]

/-! ### Finalisation -/

/-- The records of a header are over the packet in the buffer. -/
theorem specHeader_congr {s u : State} (hpkt : s.dp.pkt = u.dp.pkt) (hacc : s.accOffset = u.accOffset) (h : Header) :
    specHeader s h = specHeader u h := by
  rw [← headerFields_records, ← headerFields_records, hpkt, hacc]

/-- The decoder engine on a content that holds an instruction (42_dispatch.md R182, R186 to R189): the header's records,
then the instruction with the cursor after the header, then no cursor. -/
theorem decodeAndRun_instr {s : State} {h : Header} {i : Instr}
    (hd : decodePacket s.serviceMode (specContent s.dp.pkt) = ⟨h, .instr i⟩) :
    decodeAndRun s =
      andThen (exec i ((s.emit (specHeader s h)).withCur (specCursor h))) fun t => .next (t.withCur Cursor.idle) := by
  unfold decodeAndRun
  dsimp only
  rw [contentBytes_eq_specContent, hd, ← headerFields_records, ← headerCursor_eq]
  rfl

/-- Finalising a packet whose content holds an instruction (41_framer.md R155). -/
theorem finalise_instr {s : State} {h : Header} {i : Instr} (m1 m3 : Ts)
    (hd : decodePacket s.serviceMode (specContent s.dp.pkt) = ⟨h, .instr i⟩) :
    finalise m1 m3 s =
      andThen (exec i ((s.emit (byteRecords 0 s.dp.pkt ++ specHeader s h)).withCur (specCursor h))) fun t =>
        .next ((t.withCur Cursor.idle).emit [checksumRecord s.dp.pkt, ⟨8, m1, m3, 0, 0, 0, 0⟩]) := by
  have hheader : specHeader (s.emit (byteRecords 0 s.dp.pkt)) h = specHeader s h := specHeader_congr rfl rfl h
  rw [finalise, decodeAndRun_instr (s := s.emit (byteRecords 0 s.dp.pkt)) hd, hheader, State.emit_emit]
  obtain ⟨fs, hfs⟩ := exec_emits i ((s.emit (byteRecords 0 s.dp.pkt ++ specHeader s h)).withCur (specCursor h))
  rw [hfs]
  rfl

/-! ### From the edge port to the marker bit -/

/-- With no record pending, an edge at the front of the host's list is the one the step accepts (10_state.md R21). -/
theorem step_edge {s : State} {ts : Ts} {level : Bool} {rest : List HostAct} (hq : s.outq = [])
    (hs : s.host.script = .edge ts level :: rest) : step s = acceptEdge ts level (s.withScript rest) := by
  rw [step, takeTurn, hq, hs]
  rfl

/-- A running block with the filter off delivers every edge later than the last (40_classifier.md R110, R111). -/
theorem acceptEdge_delivers {s : State} {ts : Ts} (level : Bool) (hrun : s.running = true)
    (hshort : s.ignoreShort = false) (hlater : s.dp.lastValid = true → s.dp.lastTs < ts) :
    acceptEdge ts level s = deliver ts level (s.withDp { s.dp with lastValid := true, lastTs := ts }) := by
  have hfresh : ¬ (s.dp.lastValid && decide (ts ≤ s.dp.lastTs)) = true := by
    rw [Bool.and_eq_true, decide_eq_true_iff]
    rintro ⟨hv, hle⟩
    exact absurd (hlater hv) (BitVec.not_lt.2 hle)
  simp [acceptEdge, hrun, hshort, hfresh]

/-- The third edge of a ONE window gives the framer a One, and the window goes on from that edge (40_classifier.md R117,
R125). -/
theorem deliver_one {s : State} {ts : Ts} (level : Bool) (hphase : s.dp.phase = .stop)
    (hone : (classify s s.dp.t1 s.dp.t2 ts).1 = .one) :
    deliver ts level s =
      frameBit true s.dp.t1 ts (emitBit true false s.dp.t1 ts (s.withDp { s.dp with t1 := ts, phase := .mid })) := by
  simp only [deliver, hphase, hone, classify_one_not_stretched hone]
  rfl

/-- A One as the marker bit ends the packet with the byte just completed (41_framer.md R154). -/
theorem frameBit_packetEnd {s : State} (t1 t3 : Ts) (hfsm : s.dp.fsm = .data) (hbit : s.dp.bitcnt = 8)
    (hlen : s.dp.pkt.length < 16) :
    frameBit true t1 t3 s =
      andThen (finalise t1 t3 (s.withDp { s.dp with pkt := pktWithByte s.dp })) fun s' =>
        .next (s'.withDp { s'.dp with fsm := .wait, pkt := [] }) := by
  have hroom : ¬ Config.maxPkt ≤ s.dp.pkt.length := Nat.not_le.2 hlen
  simp [frameBit, hfsm, bitInData, hbit, markerBit, hroom]

/-- The state whose packet is finalised when the edge `ts` closes the window of the packet end bit: the edge is
accepted, the window goes on from it, the last byte is in the buffer and the BIT record is the only one pending. -/
def packetEndState (s : State) (ts : Ts) (rest : List HostAct) : State :=
  { s with
    dp := { s.dp with lastValid := true, lastTs := ts, t1 := ts, phase := .mid, accShort := 0, pkt := pktWithByte s.dp }
    outq := [LineBit.record s.dp.accShort.toNat ⟨true, false, s.dp.t1, ts⟩]
    host := { s.host with script := rest } }

/-- The edge that closes the window of a packet end bit finalises the packet and returns the framer to WAIT (41_framer.md
R145, R154). -/
theorem step_packetEnd {s : State} {ts : Ts} {level : Bool} {rest : List HostAct} (hrun : s.running = true)
    (hshort : s.ignoreShort = false) (hq : s.outq = []) (hs : s.host.script = .edge ts level :: rest)
    (hlater : s.dp.lastValid = true → s.dp.lastTs < ts) (hphase : s.dp.phase = .stop) (hfsm : s.dp.fsm = .data)
    (hbit : s.dp.bitcnt = 8) (hlen : s.dp.pkt.length < 16) (hone : (classify s s.dp.t1 s.dp.t2 ts).1 = .one) :
    step s = andThen (finalise s.dp.t1 ts (packetEndState s ts rest)) fun s' =>
      .next (s'.withDp { s'.dp with fsm := .wait, pkt := [] }) := by
  rw [step_edge hq hs, acceptEdge_delivers (s := s.withScript rest) level hrun hshort hlater, deliver_one,
    frameBit_packetEnd]
  · simp only [emitBit, State.emit, State.withDp, State.withScript, hq]
    rfl
  · exact hfsm
  · exact hbit
  · exact hlen
  · exact hphase
  · exact hone

/-- Settles O31: the edge closes the window of the packet end bit, and the packet it finalises holds an instruction. -/
theorem stepRunsTheDecodedInstruction : Obligations.StepRunsTheDecodedInstruction := by
  intro s ts level rest h i hrun hshort hq hs hlater hphase hfsm hbit hlen hone last pkt hd x v u
  have hpkt : (packetEndState s ts rest).dp.pkt = pkt := rfl
  have hu : ((packetEndState s ts rest).emit (byteRecords 0 pkt ++ specHeader (packetEndState s ts rest) h)).withCur
      (specCursor h) = u := by
    have hbytes := byteRecords_eq_mapIdx 0 pkt
    have hheader : specHeader (packetEndState s ts rest) h = specHeader v h := specHeader_congr rfl rfl h
    simp only [Nat.zero_add] at hbytes
    rw [hbytes, hheader]
    rfl
  obtain ⟨fs, hexec⟩ := exec_emits i u
  refine ⟨_, hexec, ?_⟩
  rw [step_packetEnd hrun hshort hq hs hlater hphase hfsm hbit hlen hone,
    finalise_instr (s := packetEndState s ts rest) _ _ hd, hpkt, hu, hexec, checksumRecord_append s.dp.pkt last]
  rfl

end Sys2Proof.Machine
end

section
/-! What a step can do to the whole state: what a processed edge changes, the one inversion of a host interaction, and the
invariants and run properties that follow from it (10_state.md R21, R22, R30 to R39, 20_memory.md R68, R69). -/

namespace Sys2Proof.Machine

/-! ### The framer's bounds on the datapath -/

/-- The part of `State.Framed` that speaks of the datapath (10_state.md R36, R37). -/
structure Datapath.Bounded (d : Datapath) : Prop where
  bits : d.bitcnt ≤ 8
  bytes : d.pkt.length ≤ 16
  outsideData : d.fsm ≠ .data → d.pkt = []
  preamble : d.fsm = .pre → 1 ≤ d.preCnt.toNat

theorem State.framed_iff (s : State) : s.Framed ↔ s.dp.Bounded ∧ s.cur = Cursor.idle :=
  ⟨fun ⟨hbits, hbytes, hout, hpre, hcur⟩ => ⟨⟨hbits, hbytes, hout, hpre⟩, hcur⟩,
    fun ⟨⟨hbits, hbytes, hout, hpre⟩, hcur⟩ => ⟨hbits, hbytes, hout, hpre, hcur⟩⟩

theorem Datapath.reset_bounded : Datapath.reset.Bounded := ⟨by decide, by decide, fun _ => rfl, nofun⟩

/-- The bounds speak of these four registers only. -/
theorem Datapath.Bounded.congr {d e : Datapath}
    (h : (e.fsm, e.preCnt, e.bitcnt, e.pkt) = (d.fsm, d.preCnt, d.bitcnt, d.pkt))
    (hd : d.Bounded) : e.Bounded := by
  simp only [Prod.mk.injEq] at h
  obtain ⟨hfsm, hpre, hbit, hpkt⟩ := h
  exact ⟨hbit ▸ hd.bits, hpkt ▸ hd.bytes, hfsm ▸ hpkt ▸ hd.outsideData, hfsm ▸ hpre ▸ hd.preamble⟩

/-! ### What processing an edge can do -/

/-- Processing an edge appends records and updates the datapath within the framer's bounds; the cursor is idle again
afterwards, and an edge is held only if one was held before or the filter is on (10_state.md R39, 40_classifier.md
R112). -/
structure State.Processes (s t : State) : Prop where
  effect : ∃ rs d c, t = ((s.emit rs).withDp d).withCur c
  idle : s.cur = Cursor.idle → t.cur = Cursor.idle
  held : t.dp.pendValid = true → s.dp.pendValid = true ∨ s.ignoreShort = true
  bounded : s.dp.Bounded → t.dp.Bounded

namespace State.Processes

theorem refl (s : State) : s.Processes s :=
  ⟨⟨[], s.dp, s.cur, by rw [State.emit_nil]; rfl⟩, id, .inl, id⟩

theorem trans {s t u : State} (hst : s.Processes t) (htu : t.Processes u) : s.Processes u := by
  obtain ⟨rs, d, c, rfl⟩ := hst.effect
  obtain ⟨rs', d', c', rfl⟩ := htu.effect
  refine ⟨⟨rs ++ rs', d', c', ?_⟩, htu.idle ∘ hst.idle, fun h => ?_, htu.bounded ∘ hst.bounded⟩
  · rw [← State.emit_emit]
    rfl
  · exact (htu.held h).elim hst.held .inr

theorem emit (s : State) (rs : List Record) : s.Processes (s.emit rs) :=
  ⟨⟨rs, s.dp, s.cur, rfl⟩, id, .inl, id⟩

theorem withDp {s : State} {d : Datapath} (hheld : d.pendValid = true → s.dp.pendValid = true ∨ s.ignoreShort = true)
    (hbounded : s.dp.Bounded → d.Bounded) : s.Processes (s.withDp d) :=
  ⟨⟨[], d, s.cur, by rw [State.emit_nil]; rfl⟩, id, hheld, hbounded⟩

/-- An update of the datapath that leaves the filter's flag and the framer's bounded registers. -/
theorem withDp_window {s : State} {d : Datapath} (hpend : d.pendValid = s.dp.pendValid)
    (hframer : (d.fsm, d.preCnt, d.bitcnt, d.pkt) = (s.dp.fsm, s.dp.preCnt, s.dp.bitcnt, s.dp.pkt)) :
    s.Processes (s.withDp d) :=
  .withDp (fun h => .inl (hpend ▸ h)) (.congr hframer)

/-- An update of the datapath, made with the filter on, that leaves the framer's bounded registers. -/
theorem withDp_filter {s : State} {d : Datapath} (hfilter : s.ignoreShort = true)
    (hframer : (d.fsm, d.preCnt, d.bitcnt, d.pkt) = (s.dp.fsm, s.dp.preCnt, s.dp.bitcnt, s.dp.pkt)) :
    s.Processes (s.withDp d) :=
  .withDp (fun _ => .inr hfilter) (.congr hframer)

end State.Processes

theorem emitBit_processes (bit stretched : Bool) (t1 t3 : Ts) (s : State) :
    s.Processes (emitBit bit stretched t1 t3 s) :=
  (State.Processes.emit s _).trans (.withDp_window rfl rfl)

theorem resync_processes (reason count : Word) (a b : Ts) (s : State) : s.Processes (resync reason count a b s) :=
  (State.Processes.emit s _).trans (.withDp .inl fun h => ⟨h.bits, Nat.zero_le _, fun _ => rfl, nofun⟩)

theorem bitInWait_processes (bit : Bool) (t1 : Ts) {s : State} (hfsm : s.dp.fsm = .wait) :
    s.Processes (bitInWait bit t1 s) := by
  unfold bitInWait
  split
  · refine .withDp .inl fun h => ⟨h.bits, h.bytes, fun _ => h.outsideData ?_, fun _ => Nat.le_refl 1⟩
    rw [hfsm]
    nofun
  · exact .refl s

theorem bitInPre_processes (bit : Bool) (t3 : Ts) (s : State) : s.Processes (bitInPre bit t3 s) := by
  unfold bitInPre
  split
  · refine .withDp .inl fun h => ⟨h.bits, h.bytes, h.outsideData, fun _ => ?_⟩
    change 1 ≤ (sat 16 (s.dp.preCnt.toNat + 1)).toNat
    rw [sat_toNat]
    omega
  split
  · exact (State.Processes.emit s _).trans (.withDp .inl fun _ => ⟨Nat.zero_le _, Nat.zero_le _, fun _ => rfl, nofun⟩)
  · exact resync_processes ..

theorem markerBit_processes {bit : Bool} {t1 t3 : Ts} {s t : State} (hfsm : s.dp.fsm = .data)
    (h : markerBit bit t1 t3 s = .next t) : s.Processes t := by
  unfold markerBit at h
  split at h
  next =>
    cases h
    exact resync_processes ..
  next hroom =>
    split at h
    next =>
      obtain ⟨rs, hfin⟩ := finalise_emits t1 t3 (s.withDp { s.dp with pkt := pktWithByte s.dp })
      rw [hfin] at h
      cases h
      exact ⟨⟨rs, _, _, rfl⟩, fun _ => rfl, .inl, fun hb => ⟨hb.bits, Nat.zero_le _, fun _ => rfl, nofun⟩⟩
    next =>
      cases h
      have hlen : (pktWithByte s.dp).length ≤ 16 := by
        rw [pktWithByte, List.length_append]
        exact Nat.not_le.1 hroom
      refine .withDp .inl fun _ => ⟨Nat.zero_le _, hlen, fun hne => absurd hfsm hne, fun hpre => ?_⟩
      exact Fsm.noConfusion (hfsm.symm.trans hpre)

theorem bitInData_processes {bit : Bool} {t1 t3 : Ts} {s t : State} (hfsm : s.dp.fsm = .data)
    (h : bitInData bit t1 t3 s = .next t) : s.Processes t := by
  unfold bitInData at h
  split at h
  next hlt =>
    cases h
    exact .withDp .inl fun hb => ⟨hlt, hb.bytes, hb.outsideData, hb.preamble⟩
  next => exact markerBit_processes hfsm h

theorem frameBit_processes {bit : Bool} {t1 t3 : Ts} {s t : State} (h : frameBit bit t1 t3 s = .next t) :
    s.Processes t := by
  unfold frameBit at h
  split at h
  next hfsm =>
    cases h
    exact bitInWait_processes bit t1 hfsm
  next =>
    cases h
    exact bitInPre_processes ..
  next hfsm => exact bitInData_processes hfsm h

theorem framer_processes {c : WindowClass} {stretched : Bool} {t1 t3 : Ts} {s t : State}
    (h : framer c stretched t1 t3 s = .next t) : s.Processes t := by
  cases c with
  | one => exact (emitBit_processes ..).trans (frameBit_processes h)
  | zero => exact (emitBit_processes ..).trans (frameBit_processes h)
  | straddle => cases h; exact resync_processes ..
  | railcom => cases h; exact .emit s _
  | unknown => cases h; exact resync_processes ..

/-- The window's advance leaves the filter and the framer's registers (40_classifier.md R125 to R127). -/
theorem advanceWindow_frame (c : WindowClass) (t3 : Ts) (level : Bool) (d : Datapath) :
    ∃ pol phase t1, advanceWindow c t3 level d = { d with pol := pol, phase := phase, t1 := t1 } := by
  cases c with
  | one => exact ⟨_, _, _, rfl⟩
  | zero => exact ⟨_, _, _, rfl⟩
  | railcom => exact ⟨_, _, _, rfl⟩
  | straddle => exact ⟨_, _, _, rfl⟩
  | unknown =>
    unfold advanceWindow
    dsimp only
    split
    · exact ⟨_, _, _, rfl⟩
    · exact ⟨_, _, _, rfl⟩

theorem advanceWindow_processes (c : WindowClass) (t3 : Ts) (level : Bool) (s : State) :
    s.Processes (s.withDp (advanceWindow c t3 level s.dp)) := by
  obtain ⟨pol, phase, t1, h⟩ := advanceWindow_frame c t3 level s.dp
  rw [h]
  exact .withDp_window rfl rfl

theorem deliver_processes {ts : Ts} {level : Bool} {s t : State} (h : deliver ts level s = .next t) :
    s.Processes t := by
  unfold deliver at h
  split at h
  · cases h
    split
    · exact .withDp_window rfl rfl
    · exact .refl s
  · cases h
    exact .withDp_window rfl rfl
  · exact (advanceWindow_processes ..).trans (framer_processes h)

/-- The filter holds an edge, drops a short pulse, or delivers the edge it held (40_classifier.md R112, R113). -/
theorem filterEdge_processes {ts : Ts} {level : Bool} {s t : State} (hfilter : s.ignoreShort = true)
    (h : filterEdge ts level s = .next t) : s.Processes t := by
  unfold filterEdge at h
  dsimp only at h
  split at h
  · split at h
    · cases h
      exact .withDp_filter hfilter rfl
    · have hnewer : s.Processes (s.withDp { s.dp with pendTs := ts, pendLevel := level }) := .withDp_window rfl rfl
      exact hnewer.trans (deliver_processes h)
  · cases h
    exact .withDp_filter hfilter rfl

/-- Everything the edge port can do with an edge (10_state.md R21, 40_classifier.md R110 to R112): a stopped block
discards it, a timestamp that does not increase sets TS_ERR, and any other edge is processed. -/
theorem acceptEdge_cases {ts : Ts} {level : Bool} {s t : State} (h : acceptEdge ts level s = .next t) :
    (s.running = false ∧ t = s) ∨ (s.running = true ∧ t = { s with tsErr := true }) ∨
    (s.running = true ∧ s.Processes t) := by
  unfold acceptEdge at h
  split at h
  next hstopped =>
    cases h
    exact .inl ⟨by simpa using hstopped, rfl⟩
  next hstopped =>
    have hrun : s.running = true := by simpa using hstopped
    split at h
    next =>
      cases h
      exact .inr (.inl ⟨hrun, rfl⟩)
    next =>
      have hseen : s.Processes (s.withDp { s.dp with lastValid := true, lastTs := ts }) :=
        .withDp_window rfl rfl
      dsimp only at h
      split at h
      next hfilter => exact .inr (.inr ⟨hrun, hseen.trans (filterEdge_processes hfilter h)⟩)
      next => exact .inr (.inr ⟨hrun, hseen.trans (deliver_processes h)⟩)

/-! ### What the register port can do -/

theorem writeConfig_running {s : State} (h : s.running = true) (offset : Nat) (v : Word) :
    writeConfig offset v s = s := if_pos h

/-- A write to a configuration register changes configuration registers only (10_state.md R30). -/
theorem writeConfig_frame (offset : Nat) (v : Word) (s : State) :
    ∃ rate tol thr mode acc, writeConfig offset v s =
      { s with samplerate := rate, tolPm := tol, shortThrNs := thr, mode := mode, accOffset := acc } := by
  unfold writeConfig
  repeat' split
  all_goals exact ⟨_, _, _, _, _, rfl⟩

/-- Everything a write to CTRL can do (10_state.md R31). -/
theorem writeCtrl_cases (v : Word) (s : State) :
    writeCtrl v s = softReset s ∨ (s.running = false ∧ writeCtrl v s = start s) ∨ writeCtrl v s = s := by
  unfold writeCtrl
  split
  next => exact .inl rfl
  next =>
    split
    next hstart => exact .inr (.inl ⟨by simpa using (Bool.and_eq_true_iff.1 hstart).2, rfl⟩)
    next => exact .inr (.inr rfl)

/-- Every register write is ignored, goes to CTRL, or goes to a configuration register (20_memory.md R61, R62). -/
theorem writeReg_cases (offset : Nat) (v : Word) (s : State) :
    writeReg offset v s = s ∨ (offset = 0 ∧ writeReg offset v s = writeCtrl v s) ∨
    (s.running = false ∧ writeReg offset v s = writeConfig offset v s) := by
  unfold writeReg
  split
  next => exact .inl rfl
  next =>
    split
    next hctrl => exact .inr (.inl ⟨hctrl, rfl⟩)
    next =>
      cases hrun : s.running with
      | true => exact .inl (writeConfig_running hrun offset v)
      | false => exact .inr (.inr ⟨rfl, rfl⟩)

/-! ### Everything an interaction of the host can do -/

/-- `Turn a s t`: interaction `a` performed on `s` can leave `t`. One constructor for each kind of effect
(60_exceptions.md R339). -/
inductive Turn : HostAct → State → State → Prop where
  /-- A discarded edge, an acceptance with nothing pending, a write without effect. -/
  | unchanged (a : HostAct) (s : State) : Turn a s s
  | lateEdge (ts : Ts) (level : Bool) (s : State) : s.running = true → Turn (.edge ts level) s { s with tsErr := true }
  | processedEdge (ts : Ts) (level : Bool) (s t : State) :
    s.running = true → s.Processes t → Turn (.edge ts level) s t
  | accepted (s : State) (r : Record) (rest : List Record) : s.outq = r :: rest →
    Turn .accept s { s with outq := rest, host := { s.host with taken := s.host.taken ++ [r] } }
  | read (offset : Nat) (s : State) (w : Word) :
    Turn (.memRead offset) s { s with host := { s.host with reads := s.host.reads ++ [w] } }
  | softReset (v : Word) (s : State) : Turn (.memWrite 0 v) s (softReset s)
  | refusedStart (v : Word) (s : State) : s.running = false → Turn (.memWrite 0 v) s { s with cfgErr := true }
  | started (v : Word) (s : State) : s.running = false → 25000 ≤ s.samplerate.toNat → s.tolPm.toNat ≤ 500 →
    Turn (.memWrite 0 v) s
      { s with running := true, cfgErr := false, tsErr := false, dp := Datapath.reset, outq := [] }
  | configured (offset : Nat) (v : Word) (s : State) (rate : BitVec 32) (tol : BitVec 10) (thr : BitVec 32)
    (mode : BitVec 3) (acc : BitVec 16) : s.running = false →
    Turn (.memWrite offset v) s
      { s with samplerate := rate, tolPm := tol, shortThrNs := thr, mode := mode, accOffset := acc }
  | hardReset (s : State) : Turn .hardReset s (hardReset s)

theorem writeCtrl_turn (v : Word) (s : State) : Turn (.memWrite 0 v) s (writeCtrl v s) := by
  obtain h | ⟨hrun, h⟩ | h := writeCtrl_cases v s
  · rw [h]
    exact .softReset v s
  · rw [h]
    obtain ⟨_, hstart⟩ | ⟨hlegal, hstart⟩ := start_cases s
    · rw [hstart]
      exact .refusedStart v s hrun
    · have hbounds : ¬ (s.samplerate.toNat < 25000 ∨ 500 < s.tolPm.toNat) := by
        rw [← startRefused_eq_true, hlegal]
        exact Bool.false_ne_true
      rw [hstart]
      exact .started v s hrun (by omega) (by omega)
  · rw [h]
    exact .unchanged _ s

theorem writeReg_turn (offset : Nat) (v : Word) (s : State) : Turn (.memWrite offset v) s (writeReg offset v s) := by
  obtain h | ⟨rfl, h⟩ | ⟨hrun, h⟩ := writeReg_cases offset v s
  · rw [h]
    exact .unchanged _ s
  · rw [h]
    exact writeCtrl_turn v s
  · obtain ⟨rate, tol, thr, mode, acc, hconfig⟩ := writeConfig_frame offset v s
    rw [h, hconfig]
    exact .configured offset v s rate tol thr mode acc hrun

theorem perform_turn {a : HostAct} {s t : State} (h : perform a s = .next t) : Turn a s t := by
  cases a with
  | edge ts level =>
    obtain ⟨_, rfl⟩ | ⟨hrun, rfl⟩ | ⟨hrun, hproc⟩ := acceptEdge_cases h
    · exact .unchanged ..
    · exact .lateEdge ts level s hrun
    · exact .processedEdge ts level s t hrun hproc
  | accept =>
    cases h
    obtain ⟨_, hacc⟩ | ⟨r, rest, hq, hacc⟩ := acceptRecord_cases s
    · rw [hacc]
      exact .unchanged ..
    · rw [hacc]
      exact .accepted s r rest hq
  | memRead offset =>
    dsimp only [perform] at h
    split at h
    · cases h
      exact .read ..
    · cases h
  | memWrite offset v =>
    dsimp only [perform] at h
    split at h
    · cases h
      exact writeReg_turn offset v s
    · cases h
  | hardReset =>
    cases h
    exact .hardReset s

/-- Everything a step can be: waiting, or a turn of an interaction the host had to present, no edge while a record is
pending. -/
theorem step_turn {s t : State} (h : step s = .next t) :
    t = s ∨ ∃ a ∈ s.host.script, ∃ rest, Turn a (s.withScript rest) t ∧
      (s.outq ≠ [] → ∀ ts level, a ≠ .edge ts level) := by
  obtain ⟨_, hwait⟩ | ⟨a, rest, hnext, hperf⟩ := step_cases h
  · cases hwait
    exact .inl rfl
  · refine .inr ⟨a, nextAct_mem hnext, rest, perform_turn hperf.symm, fun hq => ?_⟩
    rw [List.isEmpty_eq_false_iff.2 hq] at hnext
    exact nextAct_waiting hnext

/-! ### The invariants of the configuration and the framer -/

theorem reset_configured : State.reset.Configured := ⟨nofun, fun _ => ⟨rfl, rfl⟩, nofun⟩

theorem reset_framed : State.reset.Framed := (State.framed_iff _).2 ⟨Datapath.reset_bounded, rfl⟩

theorem State.Processes.keeps {s t : State} (h : s.Processes t) (hrun : s.running = true) (hc : s.Configured)
    (hf : s.Framed) : t.Configured ∧ t.Framed := by
  obtain ⟨hlegal, -, hheld⟩ := hc
  obtain ⟨hbounded, hcur⟩ := (State.framed_iff s).1 hf
  have hframed : t.Framed := (State.framed_iff t).2 ⟨h.bounded hbounded, h.idle hcur⟩
  refine ⟨?_, hframed⟩
  have hpend := fun hp => (h.held hp).elim hheld id
  obtain ⟨rs, d, c, rfl⟩ := h.effect
  exact ⟨hlegal, fun hstop => Bool.noConfusion (hrun.symm.trans hstop), hpend⟩

/-- A datapath at its reset values meets both invariants, in a legal configuration or stopped with nothing pending. -/
theorem keeps_of_reset {t : State} (hdp : t.dp = Datapath.reset) (hq : t.outq = []) (hcur : t.cur = Cursor.idle)
    (hlegal : t.running = true → 25000 ≤ t.samplerate.toNat ∧ t.tolPm.toNat ≤ 500) : t.Configured ∧ t.Framed := by
  refine ⟨⟨hlegal, fun _ => ⟨hdp, hq⟩, ?_⟩, (State.framed_iff t).2 ⟨hdp ▸ Datapath.reset_bounded, hcur⟩⟩
  rw [hdp]
  nofun

theorem Turn.keeps {a : HostAct} {s t : State} (h : Turn a s t) (hc : s.Configured) (hf : s.Framed) :
    t.Configured ∧ t.Framed := by
  have hcur : s.cur = Cursor.idle := ((State.framed_iff s).1 hf).2
  cases h with
  | unchanged => exact ⟨hc, hf⟩
  | lateEdge => exact ⟨hc, hf⟩
  | processedEdge _ _ _ _ hrun hproc => exact hproc.keeps hrun hc hf
  | accepted _ r rest hq =>
    obtain ⟨hlegal, hstopped, hheld⟩ := hc
    refine ⟨⟨hlegal, fun hstop => ?_, hheld⟩, hf⟩
    rw [(hstopped hstop).2] at hq
    cases hq
  | read => exact ⟨hc, hf⟩
  | softReset => exact keeps_of_reset rfl rfl hcur nofun
  | refusedStart => exact ⟨hc, hf⟩
  | started _ _ _ hrate htol => exact keeps_of_reset rfl rfl hcur fun _ => ⟨hrate, htol⟩
  | configured _ _ _ _ _ _ _ _ hrun =>
    obtain ⟨-, hstopped, -⟩ := hc
    obtain ⟨hdp, hq⟩ := hstopped hrun
    exact keeps_of_reset hdp hq hcur fun hstart => Bool.noConfusion (hrun.symm.trans hstart)
  | hardReset => exact keeps_of_reset rfl rfl rfl nofun

/-- Settles O57: every kind of turn keeps both invariants, and a step is a turn or waiting. -/
theorem stepKeepsConfiguredAndFramed : Obligations.StepKeepsConfiguredAndFramed := by
  intro s t hc hf hstep
  obtain rfl | ⟨a, -, rest, hturn, -⟩ := step_turn hstep
  · exact ⟨hc, hf⟩
  · exact hturn.keeps hc hf

/-- Settles O60: the datapath of hardware reset holds no sample index, and its stream is empty. -/
theorem resetMeetsTheInvariants : Obligations.ResetMeetsTheInvariants :=
  ⟨reset_configured, reset_framed, ⟨fun _ => rfl, nofun, fun h => absurd rfl h, nofun, nofun, nofun⟩, nofun, nofun⟩

/-! ### Steps with records pending -/

/-- A turn that is no edge leaves the datapath of a running block, unless it stops the block. -/
theorem Turn.dp_eq_or_stopped {a : HostAct} {s t : State} (h : Turn a s t) (hrun : s.running = true)
    (ha : ∀ ts level, a ≠ .edge ts level) : t.dp = s.dp ∨ t.running = false := by
  cases h with
  | unchanged => exact .inl rfl
  | lateEdge ts level => exact absurd rfl (ha ts level)
  | processedEdge ts level => exact absurd rfl (ha ts level)
  | accepted => exact .inl rfl
  | read => exact .inl rfl
  | softReset => exact .inr rfl
  | refusedStart => exact .inl rfl
  | started _ _ hstopped => exact Bool.noConfusion (hrun.symm.trans hstopped)
  | configured => exact .inl rfl
  | hardReset => exact .inr rfl

/-- With records pending, a host that has only edges to offer waits (10_state.md R21). -/
theorem nextAct_edges {l : List HostAct} (h : ∀ a ∈ l, ∃ ts level, a = .edge ts level) : nextAct false l = none := by
  cases hnext : nextAct false l with
  | none => rfl
  | some p =>
    obtain ⟨ts, level, hedge⟩ := h p.1 (nextAct_mem hnext)
    exact absurd hedge (nextAct_waiting hnext ts level)

theorem step_wait {s : State} (h : nextAct s.outq.isEmpty s.host.script = none) : step s = .next s := by
  rw [step, takeTurn, h]

theorem step_perform {s : State} {a : HostAct} {rest : List HostAct}
    (h : nextAct s.outq.isEmpty s.host.script = some (a, rest)) : step s = perform a (s.withScript rest) := by
  rw [step, takeTurn, h]

/-- The interaction a step takes is the first that is no waiting edge; the edges before it stay in front
(60_exceptions.md R339). -/
theorem nextAct_first {q : List Record} {waiting rest : List HostAct} {a : HostAct}
    (hedges : ∀ b ∈ waiting, ∃ ts level, b = .edge ts level) (hwait : waiting = [] ∨ q ≠ [])
    (ha : (∀ ts level, a ≠ .edge ts level) ∨ q = []) :
    nextAct q.isEmpty (waiting ++ a :: rest) = some (a, waiting ++ rest) := by
  cases q with
  | nil =>
    obtain rfl : waiting = [] := hwait.resolve_right (absurd rfl)
    exact nextAct_ready rest a
  | cons r q => exact nextAct_append hedges (ha.resolve_right (List.cons_ne_nil r q))

/-- Settles O51: with records pending the interaction taken is no edge. -/
theorem pendingRecordsHoldEdgesBack : Obligations.PendingRecordsHoldEdgesBack := by
  refine ⟨fun s t hrun hq hstep => ?_, fun s hq hedges => ?_, fun s waiting a rest hscript hedges hwait ha => ?_⟩
  · obtain rfl | ⟨a, -, rest, hturn, hnoEdge⟩ := step_turn hstep
    · exact .inl rfl
    · exact hturn.dp_eq_or_stopped hrun (hnoEdge hq)
  · refine step_wait ?_
    rw [List.isEmpty_eq_false_iff.2 hq]
    exact nextAct_edges hedges
  · refine step_perform ?_
    rw [hscript]
    exact nextAct_first hedges hwait ha

/-- Settles O50. -/
theorem oldestRecordLeavesFirst : Obligations.OldestRecordLeavesFirst := by
  intro s r rest acts hq hscript
  have hnext : nextAct s.outq.isEmpty s.host.script = some (.accept, acts) := by
    rw [hscript]
    rfl
  rw [step_perform hnext, perform, acceptRecord, State.withScript, hq]

/-! ### The record stream -/

/-- A turn that neither resets nor starts the block appends to the stream, and only an edge does. -/
theorem Turn.stream_grows {a : HostAct} {s t : State} (h : Turn a s t) (ha : a.restarts = false) :
    ∃ new, t.stream = s.stream ++ new ∧ ((∀ ts level, a ≠ .edge ts level) → new = []) := by
  have hsame : t.stream = s.stream →
      ∃ new, t.stream = s.stream ++ new ∧ ((∀ ts level, a ≠ .edge ts level) → new = []) :=
    fun heq => ⟨[], heq.trans (List.append_nil _).symm, fun _ => rfl⟩
  cases h with
  | unchanged => exact hsame rfl
  | lateEdge => exact hsame rfl
  | processedEdge ts level _ _ _ hproc =>
    obtain ⟨rs, d, c, rfl⟩ := hproc.effect
    exact ⟨rs, (List.append_assoc ..).symm, fun hne => absurd rfl (hne ts level)⟩
  | accepted _ r rest hq =>
    refine hsame ?_
    rw [State.stream, State.stream, hq, List.append_assoc]
    rfl
  | read => exact hsame rfl
  | softReset => cases ha
  | refusedStart => exact hsame rfl
  | started => cases ha
  | configured => exact hsame rfl
  | hardReset => cases ha

/-- Settles O52: only a processed edge adds to the stream, and none is taken while a record is pending. -/
theorem recordStreamOnlyGrows : Obligations.RecordStreamOnlyGrows := by
  intro s t hscript hstep
  obtain rfl | ⟨a, hmem, rest, hturn, hnoEdge⟩ := step_turn hstep
  · exact ⟨[], (List.append_nil _).symm, fun _ => rfl⟩
  · obtain ⟨new, hgrows, hnone⟩ := hturn.stream_grows (hscript a hmem)
    exact ⟨new, hgrows, fun hq => hnone (hnoEdge hq)⟩

/-! ### Configuration and error bits in a run -/

theorem Turn.config_eq {a : HostAct} {s t : State} (h : Turn a s t) (hs : s.running = true) (ht : t.running = true) :
    t.samplerate = s.samplerate ∧ t.tolPm = s.tolPm ∧ t.shortThrNs = s.shortThrNs ∧ t.mode = s.mode ∧
      t.accOffset = s.accOffset := by
  cases h with
  | unchanged => exact ⟨rfl, rfl, rfl, rfl, rfl⟩
  | lateEdge => exact ⟨rfl, rfl, rfl, rfl, rfl⟩
  | processedEdge _ _ _ _ _ hproc =>
    obtain ⟨rs, d, c, rfl⟩ := hproc.effect
    exact ⟨rfl, rfl, rfl, rfl, rfl⟩
  | accepted => exact ⟨rfl, rfl, rfl, rfl, rfl⟩
  | read => exact ⟨rfl, rfl, rfl, rfl, rfl⟩
  | softReset => cases ht
  | refusedStart => exact ⟨rfl, rfl, rfl, rfl, rfl⟩
  | started => exact ⟨rfl, rfl, rfl, rfl, rfl⟩
  | configured _ _ _ _ _ _ _ _ hstopped => exact Bool.noConfusion (hs.symm.trans hstopped)
  | hardReset => cases ht

/-- Settles O54: only a write to a stopped block or a reset changes the configuration. -/
theorem configurationIsConstantInARun : Obligations.ConfigurationIsConstantInARun := by
  intro s t hs ht hstep
  obtain rfl | ⟨a, -, rest, hturn, -⟩ := step_turn hstep
  · exact ⟨rfl, rfl, rfl, rfl, rfl⟩
  · exact hturn.config_eq hs ht

/-- A turn keeps both error bits, or it resets or starts the block. -/
theorem Turn.errors_kept_or_restarts {a : HostAct} {s t : State} (h : Turn a s t) :
    ((s.tsErr = true → t.tsErr = true) ∧ (s.cfgErr = true → t.cfgErr = true)) ∨
    ((t.running = false ∨ (s.running = false ∧ t.running = true)) ∧ a.restarts = true) := by
  cases h with
  | unchanged => exact .inl ⟨id, id⟩
  | lateEdge => exact .inl ⟨fun _ => rfl, id⟩
  | processedEdge _ _ _ _ _ hproc =>
    obtain ⟨rs, d, c, rfl⟩ := hproc.effect
    exact .inl ⟨id, id⟩
  | accepted => exact .inl ⟨id, id⟩
  | read => exact .inl ⟨id, id⟩
  | softReset => exact .inr ⟨.inl rfl, rfl⟩
  | refusedStart => exact .inl ⟨id, fun _ => rfl⟩
  | started _ _ hstopped => exact .inr ⟨.inr ⟨hstopped, rfl⟩, rfl⟩
  | configured => exact .inl ⟨id, id⟩
  | hardReset => exact .inr ⟨.inl rfl, rfl⟩

/-- Settles O55: the interaction that clears an error bit is itself the reset or the CTRL write of the host's list. -/
theorem errorBitsAreSticky : Obligations.ErrorBitsAreSticky := by
  intro s t hstep hcleared
  have hlost : ¬ ((s.tsErr = true → t.tsErr = true) ∧ (s.cfgErr = true → t.cfgErr = true)) := by
    rintro ⟨hts, hcfg⟩
    obtain ⟨hset, hclear⟩ | ⟨hset, hclear⟩ := hcleared
    · exact Bool.noConfusion (hclear.symm.trans (hts hset))
    · exact Bool.noConfusion (hclear.symm.trans (hcfg hset))
  obtain rfl | ⟨a, hmem, rest, hturn, -⟩ := step_turn hstep
  · exact absurd ⟨id, id⟩ hlost
  · obtain ⟨hrun, hrestarts⟩ := hturn.errors_kept_or_restarts.resolve_left hlost
    exact ⟨hrun, a, hmem, hrestarts⟩

end Sys2Proof.Machine
end

section
/-! The registers: what CTRL commands do, what STATUS shows, and what a configuration register reads after a write
(10_state.md R24 to R32). -/

namespace Sys2Proof.Machine

theorem perform_memWrite {offset : Nat} (h : offset < 256) (v : Word) (s : State) :
    perform (.memWrite offset v) s = .next (writeReg offset v s) := if_pos h

/-! ### CTRL -/

theorem writeCtrl_softReset {v : Word} (h : v.getLsbD 1 = true) (s : State) : writeCtrl v s = softReset s := if_pos h

theorem writeCtrl_start {v : Word} {s : State} (hreset : v.getLsbD 1 = false) (hstart : v.getLsbD 0 = true)
    (hrun : s.running = false) : writeCtrl v s = start s := by
  rw [writeCtrl, hreset, hstart, hrun]
  rfl

theorem writeCtrl_ignored {v : Word} {s : State} (hreset : v.getLsbD 1 = false)
    (hstart : v.getLsbD 0 = false ∨ s.running = true) : writeCtrl v s = s := by
  obtain h | h := hstart
  · rw [writeCtrl, hreset, h]
    rfl
  · rw [writeCtrl, hreset, h, Bool.not_true, Bool.and_false]
    rfl

/-- Settles O45, by the two command bits and the start check. -/
theorem controlWriteResetsOrStarts : Obligations.ControlWriteResetsOrStarts := by
  intro s v
  have hwrite : perform (.memWrite 0x00 v) s = .next (writeCtrl v s) := perform_memWrite (by decide) v s
  rw [hwrite]
  refine ⟨fun hreset => ?_, fun hreset hstart hrun => ?_, fun hreset hignored => ?_, rfl⟩
  · rw [writeCtrl_softReset hreset]
    rfl
  · rw [writeCtrl_start hreset hstart hrun]
    obtain ⟨hcheck, hs⟩ | ⟨hcheck, hs⟩ := start_cases s
    · have hbad := (startRefused_eq_true s).1 hcheck
      exact ⟨fun _ => congrArg _ hs, fun hrate htol => by omega⟩
    · refine ⟨fun hbad => ?_, fun _ _ => congrArg _ hs⟩
      rw [(startRefused_eq_true s).2 hbad] at hcheck
      cases hcheck
  · rw [writeCtrl_ignored hreset hignored]

/-! ### STATUS -/

/-- STATUS is read-only (10_state.md R32). -/
theorem writeReg_status (v : Word) (s : State) : writeReg 0x04 v s = s := by
  simp [writeReg, writeConfig]

theorem phaseCode_toNat (p : Phase) : (phaseCode p).toNat = (match p with | .start => 0 | .mid => 1 | .stop => 2) := by
  cases p <;> rfl

theorem fsmCode_toNat (f : Fsm) : (fsmCode f).toNat = (match f with | .wait => 0 | .pre => 1 | .data => 2) := by
  cases f <;> rfl

/-- STATUS as a sum of its fields at their places (10_state.md R32). -/
theorem statusWord_toNat (s : State) :
    (statusWord s).toNat = s.dp.pendValid.toNat * 256 + (phaseCode s.dp.phase).toNat * 64 +
      (fsmCode s.dp.fsm).toNat * 16 + s.dp.pol.toNat * 8 + s.tsErr.toNat * 4 + s.cfgErr.toNat * 2 + s.running.toNat := by
  simp only [statusWord, toNat_append_eq_add, BitVec.toNat_ofBool, BitVec.toNat_ofNat]
  omega

/-- The flags of STATUS (10_state.md R32). -/
theorem statusWord_flags (s : State) :
    (statusWord s).getLsbD 0 = s.running ∧ (statusWord s).getLsbD 1 = s.cfgErr ∧
    (statusWord s).getLsbD 2 = s.tsErr ∧ (statusWord s).getLsbD 3 = s.dp.pol ∧
    (statusWord s).getLsbD 8 = s.dp.pendValid := by
  simp only [statusWord, BitVec.getLsbD_append]
  simp

/-- Settles O46: the flags bit by bit, the two-bit fields from the word as a sum. -/
theorem statusFields : Obligations.StatusFields := by
  intro s v w
  obtain ⟨hrun, hcfg, hts, hpol, hpend⟩ := statusWord_flags s
  have hsum : w.toNat = _ := statusWord_toNat s
  have := Bool.toNat_le s.dp.pendValid
  have := Bool.toNat_le s.dp.pol
  have := Bool.toNat_le s.tsErr
  have := Bool.toNat_le s.cfgErr
  have := Bool.toNat_le s.running
  have hphase : (phaseCode s.dp.phase).toNat < 4 := (phaseCode s.dp.phase).isLt
  have hfsm : (fsmCode s.dp.fsm).toNat < 4 := (fsmCode s.dp.fsm).isLt
  have hwrite : perform (.memWrite 0x04 v) s = .next s := by
    rw [perform_memWrite (by decide), writeReg_status]
  have hfsmField : w.toNat / 16 % 4 = (fsmCode s.dp.fsm).toNat := by omega
  have hphaseField : w.toNat / 64 % 4 = (phaseCode s.dp.phase).toNat := by omega
  exact ⟨hrun, hcfg, hts, hpol, hfsmField.trans (fsmCode_toNat _), hphaseField.trans (phaseCode_toNat _), hpend,
    by omega, rfl, hwrite⟩

/-! ### Configuration registers -/

/-- A write to a configuration register leaves what every other offset reads (20_memory.md R61). -/
theorem readReg_writeConfig_ne {offset o : Nat} (h : o ≠ offset) (v : Word) (s : State) :
    readReg o (writeConfig offset v s) = readReg o s := by
  unfold writeConfig
  repeat' split
  all_goals
    subst_vars
    simp only [readReg, h, if_false] <;> rfl

/-- A register of fewer than 32 bits reads the low bits of what was written, zero-extended. -/
theorem lowBits_toNat {n : Nat} (h : n ≤ 32) (v : Word) :
    ((v.extractLsb' 0 n).setWidth 32).toNat = v.toNat % 2 ^ n := by
  rw [BitVec.toNat_setWidth_of_le h, BitVec.extractLsb'_toNat, Nat.shiftRight_zero]

/-- The bits a configuration register defines, as the size of its values (10_state.md R24 to R28). -/
def configSizes : List (Nat × Nat) := [(0x08, 2 ^ 32), (0x0C, 2 ^ 10), (0x10, 2 ^ 32), (0x14, 2 ^ 3), (0x18, 2 ^ 16)]

/-- A stopped block's configuration register reads the bits it defines of what was written. -/
theorem readReg_writeConfig_same {offset size : Nat} (hmem : (offset, size) ∈ configSizes) (v : Word) {s : State}
    (hrun : s.running = false) : (readReg offset (writeConfig offset v s)).toNat = v.toNat % size := by
  have hv : v.toNat < 2 ^ 32 := v.isLt
  simp only [configSizes, List.mem_cons, Prod.mk.injEq, List.not_mem_nil, or_false] at hmem
  obtain ⟨rfl, rfl⟩ | ⟨rfl, rfl⟩ | ⟨rfl, rfl⟩ | ⟨rfl, rfl⟩ | ⟨rfl, rfl⟩ := hmem
  · have hread : readReg 0x08 (writeConfig 0x08 v s) = v := by simp [readReg, writeConfig, hrun]
    rw [hread]
    omega
  · have hread : readReg 0x0C (writeConfig 0x0C v s) = (v.extractLsb' 0 10).setWidth 32 := by
      simp [readReg, writeConfig, hrun]
    rw [hread, lowBits_toNat (by decide)]
  · have hread : readReg 0x10 (writeConfig 0x10 v s) = v := by simp [readReg, writeConfig, hrun]
    rw [hread]
    omega
  · have hread : readReg 0x14 (writeConfig 0x14 v s) = (v.extractLsb' 0 3).setWidth 32 := by
      simp [readReg, writeConfig, hrun]
    rw [hread, lowBits_toNat (by decide)]
  · have hread : readReg 0x18 (writeConfig 0x18 v s) = (v.extractLsb' 0 16).setWidth 32 := by
      simp [readReg, writeConfig, hrun]
    rw [hread, lowBits_toNat (by decide)]

theorem perform_writeConfig {offset size : Nat} (hmem : (offset, size) ∈ configSizes) (v : Word) (s : State) :
    perform (.memWrite offset v) s = .next (writeConfig offset v s) := by
  have hoffsets : ∀ p ∈ configSizes, p.1 < 256 ∧ p.1 % 4 = 0 ∧ p.1 ≠ 0 := by decide
  obtain ⟨hspace, haligned, hctrl⟩ := hoffsets _ hmem
  rw [perform_memWrite hspace, writeReg, if_neg (not_not.2 haligned), if_neg hctrl]

/-- Settles O47. -/
theorem configurationRegistersHoldTheirBits : Obligations.ConfigurationRegistersHoldTheirBits := by
  intro offset size v s hmem
  rw [perform_writeConfig hmem]
  refine ⟨fun hrun => ?_, fun hrun => congrArg _ (writeConfig_running hrun offset v)⟩
  refine ⟨_, rfl, readReg_writeConfig_same hmem v hrun, fun o ho => readReg_writeConfig_ne ho v s, ?_⟩
  obtain ⟨rate, tol, thr, mode, acc, hconfig⟩ := writeConfig_frame offset v s
  rw [hconfig]
  exact ⟨rfl, rfl, rfl, rfl, rfl, rfl, rfl⟩

end Sys2Proof.Machine
end

section
/-! Offsets that hold no register, inside the register space and beyond it (20_memory.md R60, R62). -/

namespace Sys2Proof.Machine

theorem perform_memRead {offset : Nat} (h : offset < 256) (s : State) :
    perform (.memRead offset) s = .next { s with host := { s.host with reads := s.host.reads ++ [readReg offset s] } } :=
  if_pos h

/-- No register is at a misaligned offset, nor at 0x1C and above (10_state.md R29). -/
theorem readReg_hole {offset : Nat} (h : offset % 4 ≠ 0 ∨ 0x1C ≤ offset) (s : State) : readReg offset s = 0 := by
  unfold readReg
  split
  next => rfl
  next haligned =>
    have habove : 0x1C ≤ offset := h.resolve_left haligned
    repeat rw [if_neg (by omega)]

theorem writeConfig_reserved {offset : Nat} (h : 0x1C ≤ offset) (v : Word) (s : State) : writeConfig offset v s = s := by
  unfold writeConfig
  split
  next => rfl
  next => repeat rw [if_neg (by omega)]

theorem writeReg_hole {offset : Nat} (h : offset % 4 ≠ 0 ∨ 0x1C ≤ offset) (v : Word) (s : State) :
    writeReg offset v s = s := by
  unfold writeReg
  split
  next => rfl
  next haligned =>
    have habove : 0x1C ≤ offset := h.resolve_left haligned
    rw [if_neg (by omega), writeConfig_reserved habove]

/-- Settles O48: a write leaves the state as it is there, and the word read is 0. -/
theorem misalignedAndReservedOffsets : Obligations.MisalignedAndReservedOffsets := by
  intro offset v s hspace hhole
  rw [perform_memWrite hspace, perform_memRead hspace, writeReg_hole hhole, readReg_hole hhole]
  exact ⟨rfl, rfl⟩

/-- Settles O49. -/
theorem offsetsOutsideTheSpaceFault : Obligations.OffsetsOutsideTheSpaceFault := by
  intro offset v s hout
  have houtside : ¬ offset < spaceSize := Nat.not_lt.2 hout
  exact ⟨if_neg houtside, if_neg houtside⟩

end Sys2Proof.Machine
end

section
/-! Data bits: what one classified bit does in DATA, what a run of them does, and the byte that eight make (41_framer.md
R145, R151, 20_memory.md R65). -/

namespace Sys2Proof.Machine

/-! ### One bit -/

/-- A ONE or a ZERO window emits its BIT record and then moves the framer by its bit (41_framer.md R140, R145). -/
theorem framer_bit (w : LineBit) (s : State) :
    framer (if w.bit then .one else .zero) w.stretched w.start w.stop s =
      frameBit w.bit w.start w.stop { s with
        outq := s.outq ++ [w.record s.dp.accShort.toNat], dp := { s.dp with accShort := 0 } } := by
  obtain ⟨bit, stretched, start, stop⟩ := w
  cases bit <;> rfl

/-- The datapath after a data bit whose BIT record has reported and cleared the short-pulse sum. -/
def LineBit.shiftInto (d : Datapath) (w : LineBit) : Datapath :=
  dataBit w.bit w.start w.stop { d with accShort := 0 }

theorem frameBit_dataBit (bit : Bool) (t1 t3 : Ts) {s : State} (hfsm : s.dp.fsm = .data) (hroom : s.dp.bitcnt < 8) :
    frameBit bit t1 t3 s = .next (s.withDp (dataBit bit t1 t3 s.dp)) := by
  rw [frameBit, hfsm]
  exact if_pos hroom

/-- All that the framer does to a state on a bit of an unfinished byte (41_framer.md R145, R151). -/
theorem framer_dataBit (w : LineBit) {s : State} (hfsm : s.dp.fsm = .data) (hroom : s.dp.bitcnt < 8) :
    framer (if w.bit then .one else .zero) w.stretched w.start w.stop s = .next { s with
      outq := s.outq ++ [w.record s.dp.accShort.toNat], dp := LineBit.shiftInto s.dp w } := by
  rw [framer_bit]
  exact frameBit_dataBit _ _ _ hfsm hroom

/-- A byte with its most significant bit shifted out and `bit` shifted in at the low end (20_memory.md R65). -/
def shiftLow (acc : Byte) (bit : Bool) : Byte := acc.extractLsb' 0 7 ++ BitVec.ofBool bit

/-- As a number, a shift doubles the byte and adds the bit, in eight bits. -/
theorem shiftLow_eq_ofNat (acc : Byte) (bit : Bool) : shiftLow acc bit = BitVec.ofNat 8 (2 * acc.toNat + bit.toNat) := by
  have hbit := Bool.toNat_le bit
  apply BitVec.eq_of_toNat_eq
  rw [shiftLow, toNat_append_eq_add, BitVec.extractLsb'_toNat, BitVec.toNat_ofBool, BitVec.toNat_ofNat,
    Nat.shiftRight_zero]
  omega

theorem LineBit.shiftInto_eq (d : Datapath) (w : LineBit) :
    LineBit.shiftInto d w = { d with
      byteStart := if d.bitcnt = 0 then w.start else d.byteStart
      acc := shiftLow d.acc w.bit
      bitcnt := d.bitcnt + 1
      byteEnd := if d.bitcnt = 7 then w.stop else d.byteEnd
      accShort := 0 } := by
  simp only [LineBit.shiftInto, dataBit, shiftLow, Nat.reduceEqDiff]

/-! ### A run of bits -/

/-- The BIT records of a run are the first bit's record and those of the rest, which have no short pulses to report. -/
theorem bitRecords_cons (short : Nat) (w : LineBit) (ws : List LineBit) :
    bitRecords short (w :: ws) = w.record short :: bitRecords 0 ws := by
  cases ws <;> rfl

/-- Bits that fit in the unfinished byte are shifted in one after another, each after its BIT record. -/
theorem feed_dataBits (ws : List LineBit) {s : State} (hfsm : s.dp.fsm = .data) (hroom : s.dp.bitcnt + ws.length ≤ 8) :
    feed ws s = .next { s with
      outq := s.outq ++ bitRecords s.dp.accShort.toNat ws, dp := ws.foldl LineBit.shiftInto s.dp } := by
  induction ws generalizing s with
  | nil => simp [feed, bitRecords]
  | cons w ws ih =>
    rw [List.length_cons] at hroom
    have hrest : (LineBit.shiftInto s.dp w).bitcnt + ws.length ≤ 8 := by
      rw [LineBit.shiftInto_eq]
      dsimp only
      omega
    rw [feed, framer_dataBit w hfsm (by omega), andThen_next]
    refine (ih (s := { s with outq := _, dp := LineBit.shiftInto s.dp w }) hfsm hrest).trans ?_
    rw [bitRecords_cons, List.append_assoc]
    rfl

/-! ### A byte -/

/-- The accumulator takes the bits of a run in their order. -/
theorem foldl_shiftInto_acc (ws : List LineBit) (d : Datapath) :
    (ws.foldl LineBit.shiftInto d).acc = (ws.map LineBit.bit).foldl shiftLow d.acc := by
  induction ws generalizing d with
  | nil => rfl
  | cons w ws ih => exact ih _

theorem shiftLow_getLsbD_zero (acc : Byte) (bit : Bool) : (shiftLow acc bit).getLsbD 0 = bit :=
  BitVec.getLsbD_append.trans (by simp)

theorem shiftLow_getLsbD_succ (acc : Byte) (bit : Bool) {i : Nat} (h : i < 7) :
    (shiftLow acc bit).getLsbD (i + 1) = acc.getLsbD i :=
  BitVec.getLsbD_append.trans (by simp [h])

/-- Shifting in the bits of a byte, most significant first, leaves that byte, whatever was there before. -/
theorem foldl_shiftLow_byteBits (acc b : Byte) : (byteBits b).foldl shiftLow acc = b := by
  apply BitVec.eq_of_getLsbD_eq
  intro i hi
  simp only [byteBits, List.foldl_cons, List.foldl_nil]
  interval_cases i <;> simp only [shiftLow_getLsbD_zero, shiftLow_getLsbD_succ, Nat.reduceLT]

/-- Eight bits from the start of a byte: the byte, and the range from the first bit's start to the last bit's end
(20_memory.md R65, 41_framer.md R151). -/
theorem foldl_shiftInto_byte {ws : List LineBit} {b : Byte} {d : Datapath} (hcnt : d.bitcnt = 0)
    (hbits : ws.map LineBit.bit = byteBits b) :
    ws.foldl LineBit.shiftInto d = { d with
      acc := b
      bitcnt := 8
      byteStart := (ws.headD ⟨false, false, 0, 0⟩).start
      byteEnd := (ws.getLastD ⟨false, false, 0, 0⟩).stop
      accShort := 0 } := by
  have hacc : (ws.foldl LineBit.shiftInto d).acc = b := by
    rw [foldl_shiftInto_acc, hbits, foldl_shiftLow_byteBits]
  simp only [byteBits, List.map_eq_cons_iff, List.map_eq_nil_iff] at hbits
  obtain ⟨w7, _, rfl, -, w6, _, rfl, -, w5, _, rfl, -, w4, _, rfl, -, w3, _, rfl, -, w2, _, rfl, -, w1, _, rfl, -, w0, _,
    rfl, -, rfl⟩ := hbits
  simp only [List.foldl_cons, List.foldl_nil, LineBit.shiftInto_eq, hcnt] at hacc ⊢
  rw [hacc]
  rfl

/-- Settles O40: one bit by the framer's rule in DATA, eight by what a run of bits does to the accumulator. -/
theorem eightBitsMakeAByte : Obligations.EightBitsMakeAByte := by
  refine ⟨fun s bit stretched t1 t3 hfsm hroom => ?_, fun s b ws hfsm hcnt hbits => ?_⟩
  · rw [framer_dataBit ⟨bit, stretched, t1, t3⟩ hfsm hroom, LineBit.shiftInto_eq, shiftLow_eq_ofNat]
  · have hlen : ws.length = 8 := by
      rw [← List.length_map LineBit.bit, hbits]
      rfl
    rw [feed_dataBits ws hfsm (by omega), foldl_shiftInto_byte hcnt hbits]

end Sys2Proof.Machine
end

section
/-! The edge port: what it does with an offered edge, how a delivered edge fills the window and how the window goes on
(10_state.md R21, 40_classifier.md R110 to R117, R125 to R127). -/

namespace Sys2Proof.Machine

/-! ### The advance of the window -/

/-- Settles O37: the classes are split as 40_classifier.md R125 to R127 group them. -/
theorem windowAdvancesByClass : Obligations.WindowAdvancesByClass := by
  refine fun c t3 level d => ⟨fun hc => ?_, ?_, ?_, ?_⟩
  · simp only [List.mem_cons, List.not_mem_nil, or_false] at hc
    obtain rfl | rfl | rfl := hc
    · rfl
    · rfl
    · rfl
  · rintro rfl
    rfl
  · rintro rfl hlevel
    exact if_pos hlevel
  · rintro rfl hlevel
    exact if_neg hlevel

/-- Only a STRADDLE turns the polarity (40_classifier.md R126). -/
theorem advanceWindow_pol {c : WindowClass} (hc : c ≠ .straddle) (t3 : Ts) (level : Bool) (d : Datapath) :
    (advanceWindow c t3 level d).pol = d.pol := by
  cases c with
  | one => rfl
  | zero => rfl
  | railcom => rfl
  | straddle => exact absurd rfl hc
  | unknown =>
    unfold advanceWindow
    dsimp only
    split
    · rfl
    · rfl

/-! ### A delivered edge -/

section
variable {s : State} (ts : Ts) {level : Bool}

theorem deliver_awaited (hphase : s.dp.phase = .start) (hlevel : level = s.dp.pol) :
    deliver ts level s = .next (s.withDp { s.dp with t1 := ts, phase := .mid }) := by
  rw [deliver, hphase]
  exact congrArg _ (if_pos hlevel)

theorem deliver_ignored (hphase : s.dp.phase = .start) (hlevel : level ≠ s.dp.pol) :
    deliver ts level s = .next s := by
  rw [deliver, hphase]
  exact congrArg _ (if_neg hlevel)

theorem deliver_second (hphase : s.dp.phase = .mid) :
    deliver ts level s = .next (s.withDp { s.dp with t2 := ts, phase := .stop }) := by
  rw [deliver, hphase]

theorem deliver_third (hphase : s.dp.phase = .stop) :
    deliver ts level s =
      framer (classify s s.dp.t1 s.dp.t2 ts).1 (classify s s.dp.t1 s.dp.t2 ts).2 s.dp.t1 ts
        (s.withDp (advanceWindow (classify s s.dp.t1 s.dp.t2 ts).1 ts level s.dp)) := by
  rw [deliver, hphase]

end

/-- Settles O34, by the phase of the window. -/
theorem deliveredEdgeFillsTheWindow : Obligations.DeliveredEdgeFillsTheWindow :=
  fun _ ts _ => ⟨deliver_awaited ts, deliver_ignored ts, deliver_second ts, deliver_third ts⟩

/-! ### The short-pulse filter -/

/-- The integer test of the filter is the exact test over rational microseconds (00_scope.md R12, 40_classifier.md
R113). -/
theorem isShort_iff {s : State} (hfs : 0 < s.samplerate.toNat) (d : Nat) :
    isShort s d = true ↔ us s.samplerate.toNat d ≤ (s.shortThrNs.toNat : ℚ) / 1000 := by
  have hq : (0 : ℚ) < s.samplerate.toNat := Nat.cast_pos.2 hfs
  rw [isShort, decide_eq_true_iff, us, div_le_iff₀ hq, ← Nat.cast_le (α := ℚ)]
  push_cast
  constructor <;> intro h <;> linarith

section
variable {s : State} {ts : Ts} (level : Bool)

theorem filterEdge_holds (hheld : s.dp.pendValid = false) :
    filterEdge ts level s =
      .next (s.withDp { s.dp with pendValid := true, pendTs := ts, pendLevel := level }) := by
  simp [filterEdge, hheld]

theorem filterEdge_deletes (hheld : s.dp.pendValid = true) (hshort : isShort s (ts.toNat - s.dp.pendTs.toNat) = true) :
    filterEdge ts level s = .next (s.withDp { s.dp with
      pendValid := false, accShort := sat 64 (s.dp.accShort.toNat + (ts.toNat - s.dp.pendTs.toNat)) }) := by
  simp [filterEdge, hheld, hshort]

theorem filterEdge_delivers (hheld : s.dp.pendValid = true)
    (hlong : isShort s (ts.toNat - s.dp.pendTs.toNat) = false) :
    filterEdge ts level s =
      deliver s.dp.pendTs s.dp.pendLevel (s.withDp { s.dp with pendTs := ts, pendLevel := level }) := by
  simp [filterEdge, hheld, hlong]

end

/-! ### An offered edge -/

section
variable {s : State} {ts : Ts} (level : Bool)

theorem acceptEdge_stopped (hrun : s.running = false) : acceptEdge ts level s = .next s := by
  simp [acceptEdge, hrun]

theorem acceptEdge_late (hrun : s.running = true) (hseen : s.dp.lastValid = true) (hlate : ts ≤ s.dp.lastTs) :
    acceptEdge ts level s = .next { s with tsErr := true } := by
  simp [acceptEdge, hrun, hseen, hlate]

/-- A running block with the filter on passes every edge later than the last to the filter (40_classifier.md R110,
R112). -/
theorem acceptEdge_filters (hrun : s.running = true) (hfilter : s.ignoreShort = true)
    (hlater : s.dp.lastValid = true → s.dp.lastTs < ts) :
    acceptEdge ts level s = filterEdge ts level (s.withDp { s.dp with lastValid := true, lastTs := ts }) := by
  have hfresh : (s.dp.lastValid && decide (ts ≤ s.dp.lastTs)) = false :=
    Bool.and_eq_false_imp.2 fun hv => decide_eq_false (BitVec.not_le.2 (hlater hv))
  rw [acceptEdge, hrun, hfresh]
  exact if_pos hfilter

end

/-- Settles O33: the step accepts the edge, and the port's rule for each case says the rest. -/
theorem edgeStepFiltersAndDelivers : Obligations.EdgeStepFiltersAndDelivers := by
  intro s ts level rest hq hs u v
  rw [step_edge hq hs]
  refine ⟨acceptEdge_stopped (s := u) level, acceptEdge_late (s := u) level, fun hrun hlater => ?_⟩
  refine ⟨fun hoff => acceptEdge_delivers level hrun hoff hlater, fun hon hheld => ?_, fun hon hheld _ hfs => ?_⟩
  · exact (acceptEdge_filters (s := u) level hrun hon hlater).trans (filterEdge_holds (s := v) level hheld)
  · have hfilter : acceptEdge ts level u = filterEdge ts level v := acceptEdge_filters level hrun hon hlater
    intro len
    have hshort := isShort_iff (s := v) hfs len
    refine ⟨fun hle => ?_, fun hlt => ?_⟩
    · exact hfilter.trans (filterEdge_deletes (s := v) level hheld (hshort.2 hle))
    · have hlong : isShort v len = false := Bool.eq_false_iff.2 fun h => absurd hlt (not_lt.2 (hshort.1 h))
      exact hfilter.trans (filterEdge_delivers (s := v) level hheld hlong)

end Sys2Proof.Machine
end

section
/-! The polarity in a run: the framer leaves all that the edge port keeps, so only the window's advance after a STRADDLE
turns the level that starts a bit (40_classifier.md R126, 41_framer.md R141 to R144). -/

namespace Sys2Proof.Machine

/-! ### What the framer leaves unchanged -/

/-- The registers of the edge port: the last timestamp, the held edge, the polarity and the window (10_state.md R33 to
R35, without the short-pulse sum). -/
def Datapath.edgePart (d : Datapath) : (Bool × Ts) × (Bool × Ts × Bool) × (Bool × Phase × Ts × Ts) :=
  ((d.lastValid, d.lastTs), (d.pendValid, d.pendTs, d.pendLevel), (d.pol, d.phase, d.t1, d.t2))

theorem Datapath.pol_eq_of_edgePart_eq {d e : Datapath} (h : d.edgePart = e.edgePart) : d.pol = e.pol :=
  congrArg (fun p => p.2.2.1) h

theorem bitInWait_edgePart (bit : Bool) (t1 : Ts) (s : State) :
    (bitInWait bit t1 s).dp.edgePart = s.dp.edgePart := by
  unfold bitInWait
  split
  · rfl
  · rfl

theorem bitInPre_edgePart (bit : Bool) (t3 : Ts) (s : State) : (bitInPre bit t3 s).dp.edgePart = s.dp.edgePart := by
  unfold bitInPre
  split
  · rfl
  split
  · rfl
  · rfl

theorem markerBit_edgePart {bit : Bool} {t1 t3 : Ts} {s t : State} (h : markerBit bit t1 t3 s = .next t) :
    t.dp.edgePart = s.dp.edgePart := by
  unfold markerBit at h
  split at h
  · cases h
    rfl
  split at h
  · obtain ⟨rs, hfin⟩ := finalise_emits t1 t3 (s.withDp { s.dp with pkt := pktWithByte s.dp })
    rw [hfin] at h
    cases h
    rfl
  · cases h
    rfl

theorem frameBit_edgePart {bit : Bool} {t1 t3 : Ts} {s t : State} (h : frameBit bit t1 t3 s = .next t) :
    t.dp.edgePart = s.dp.edgePart := by
  unfold frameBit at h
  split at h
  · cases h
    exact bitInWait_edgePart ..
  · cases h
    exact bitInPre_edgePart ..
  · unfold bitInData at h
    split at h
    · cases h
      rfl
    · exact markerBit_edgePart h

/-- Whatever the window's class, the framer leaves the registers of the edge port (41_framer.md R140 to R144). -/
theorem framer_edgePart {c : WindowClass} {stretched : Bool} {t1 t3 : Ts} {s t : State}
    (h : framer c stretched t1 t3 s = .next t) : t.dp.edgePart = s.dp.edgePart := by
  cases c with
  | one => exact frameBit_edgePart (s := emitBit true stretched t1 t3 s) h
  | zero => exact frameBit_edgePart (s := emitBit false stretched t1 t3 s) h
  | straddle => cases h; rfl
  | railcom => cases h; rfl
  | unknown => cases h; rfl

/-! ### The polarity across an edge -/

/-- From `s` to `t` the polarity flips and a RESYNC(POLARITY) is reported (41_framer.md R144). -/
def State.FlipsPolarity (s t : State) : Prop :=
  t.dp.pol = !s.dp.pol ∧ ∃ r ∈ t.outq, r.kind = 3 ∧ r.a0 = 2

/-- A completed window keeps the polarity, or it is a STRADDLE and reports the flip (40_classifier.md R126, 41_framer.md
R144). -/
theorem framer_advance_polarity {c : WindowClass} {stretched level : Bool} {t1 t3 : Ts} {s t : State}
    (h : framer c stretched t1 t3 (s.withDp (advanceWindow c t3 level s.dp)) = .next t) :
    t.dp.pol = s.dp.pol ∨ s.FlipsPolarity t := by
  by_cases hc : c = .straddle
  · subst hc
    cases h
    exact .inr ⟨rfl, _, List.mem_append_right _ (List.mem_singleton_self _), rfl, rfl⟩
  · have hframer := Datapath.pol_eq_of_edgePart_eq (framer_edgePart h)
    exact .inl (hframer.trans (advanceWindow_pol hc t3 level s.dp))

theorem deliver_polarity {ts : Ts} {level : Bool} {s t : State} (h : deliver ts level s = .next t) :
    t.dp.pol = s.dp.pol ∨ s.FlipsPolarity t := by
  cases hphase : s.dp.phase with
  | start =>
    by_cases hlevel : level = s.dp.pol
    · rw [deliver_awaited ts hphase hlevel] at h
      cases h
      exact .inl rfl
    · rw [deliver_ignored ts hphase hlevel] at h
      cases h
      exact .inl rfl
  | mid =>
    rw [deliver_second ts hphase] at h
    cases h
    exact .inl rfl
  | stop =>
    rw [deliver_third ts hphase] at h
    exact framer_advance_polarity h

theorem filterEdge_polarity {ts : Ts} {level : Bool} {s t : State} (h : filterEdge ts level s = .next t) :
    t.dp.pol = s.dp.pol ∨ s.FlipsPolarity t := by
  cases hheld : s.dp.pendValid with
  | false =>
    rw [filterEdge_holds level hheld] at h
    cases h
    exact .inl rfl
  | true =>
    cases hshort : isShort s (ts.toNat - s.dp.pendTs.toNat) with
    | true =>
      rw [filterEdge_deletes level hheld hshort] at h
      cases h
      exact .inl rfl
    | false =>
      rw [filterEdge_delivers level hheld hshort] at h
      exact (deliver_polarity h :)

theorem acceptEdge_polarity {ts : Ts} {level : Bool} {s t : State} (h : acceptEdge ts level s = .next t) :
    t.dp.pol = s.dp.pol ∨ s.FlipsPolarity t := by
  unfold acceptEdge at h
  split at h
  · cases h
    exact .inl rfl
  split at h
  · cases h
    exact .inl rfl
  dsimp only at h
  split at h
  · exact (filterEdge_polarity h :)
  · exact (deliver_polarity h :)

/-! ### The polarity across a step -/

/-- A turn that is no edge leaves the polarity or stops the block: a start resets the datapath, but the datapath of a
stopped block is reset already (10_state.md R31, 70_reset_and_hazards.md R352). -/
theorem Turn.pol_eq_or_stopped {a : HostAct} {s t : State} (h : Turn a s t) (hc : s.Configured)
    (ha : ∀ ts level, a ≠ .edge ts level) : t.dp.pol = s.dp.pol ∨ t.running = false := by
  cases hrun : s.running with
  | true => exact (h.dp_eq_or_stopped hrun ha).imp_left (congrArg Datapath.pol)
  | false =>
    obtain ⟨-, hstopped, -⟩ := hc
    obtain ⟨hreset, -⟩ := hstopped hrun
    cases h with
    | unchanged => exact .inr hrun
    | lateEdge ts level => exact absurd rfl (ha ts level)
    | processedEdge ts level => exact absurd rfl (ha ts level)
    | accepted => exact .inr hrun
    | read => exact .inr hrun
    | softReset => exact .inr rfl
    | refusedStart => exact .inr hrun
    | started => exact .inl (congrArg Datapath.pol hreset.symm)
    | configured => exact .inr hrun
    | hardReset => exact .inr rfl

/-- Settles O56: an edge, taken only with no record pending, keeps the polarity or reports the flip; every other
interaction keeps it or leaves the block stopped. -/
theorem polarityChangesOnlyByStraddle : Obligations.PolarityChangesOnlyByStraddle := by
  intro s t hc hstep hpol
  obtain ⟨-, hwait⟩ | ⟨a, rest, hnext, hperf⟩ := step_cases hstep
  · cases hwait
    exact absurd rfl hpol
  by_cases ha : ∃ ts level, a = .edge ts level
  · obtain ⟨ts, level, rfl⟩ := ha
    have hq : s.outq = [] := by
      by_contra hpending
      rw [List.isEmpty_eq_false_iff.2 hpending] at hnext
      exact nextAct_waiting hnext ts level rfl
    obtain ⟨hflip, hreport⟩ := (acceptEdge_polarity hperf.symm).resolve_left hpol
    exact .inr ⟨hq, hflip, hreport⟩
  · have hedge : ∀ ts level, a ≠ .edge ts level := fun ts level h => ha ⟨ts, level, h⟩
    exact .inl (((perform_turn hperf.symm).pol_eq_or_stopped hc hedge).resolve_left hpol)

end Sys2Proof.Machine
end

section
/-! The framer's rules beside the data bits: the anomalies, the preamble, the marker bit and the finalisation of a packet
(41_framer.md R141 to R150, R152 to R160). -/

namespace Sys2Proof.Machine

/-! ### Anomalies -/

/-- Settles O38: none of the three classes looks at the framer's state. -/
theorem anomaliesResynchronise : Obligations.AnomaliesResynchronise :=
  fun _ _ _ _ => ⟨rfl, rfl, rfl⟩

/-! ### Finalisation -/

theorem State.emitFields_append (s : State) (as bs : List Field) :
    s.emitFields (as ++ bs) = (s.emitFields as).emitFields bs := by
  rw [State.emitFields, List.map_append, ← State.emit_emit]
  rfl

/-- The fields of an instruction do not depend on the records already pending. -/
theorem exec_emits_same (i : Instr) (s : State) (q : List Record) :
    ∃ fs : List Field, exec i s = .next (s.emitFields fs) ∧
      exec i { s with outq := q } = .next (State.emitFields { s with outq := q } fs) := by
  cases i <;> exact ⟨_, rfl, rfl⟩

/-- The fields of what follows the header do not depend on the records already pending. -/
theorem runBody_emits_same (b : Body) (content : List Byte) (s : State) (q : List Record) :
    ∃ fs : List Field, runBody b content s = .next (s.emitFields fs) ∧
      runBody b content { s with outq := q } = .next (State.emitFields { s with outq := q } fs) := by
  cases b with
  | instr i => exact exec_emits_same i s q
  | reject r => exact ⟨_, rfl, rfl⟩

/-- The decoder engine appends the same fields whatever records are pending (42_dispatch.md R203). -/
theorem decodeAndRun_emits_same (s : State) (q : List Record) :
    ∃ fs : List Field, decodeAndRun s = .next ((s.emitFields fs).withCur Cursor.idle) ∧
      decodeAndRun { s with outq := q } =
        .next ((State.emitFields { s with outq := q } fs).withCur Cursor.idle) := by
  unfold decodeAndRun
  dsimp only [State.serviceMode]
  generalize decodePacket (s.mode.getLsbD 0) (contentBytes s.dp.pkt) = p
  obtain ⟨fs, hrun, hrun'⟩ := runBody_emits_same p.body (contentBytes s.dp.pkt)
    ((s.emitFields (headerFields p.header s.accOffset)).withCur (headerCursor p.header))
    (q ++ (headerFields p.header s.accOffset).map (fieldRecord s.dp.pkt))
  refine ⟨headerFields p.header s.accOffset ++ fs, ?_, ?_⟩
  · rw [hrun, State.emitFields_append]
    rfl
  · rw [State.emitFields_append]
    exact congrArg (andThen · _) hrun'

/-- The CHECKSUM record is over the last byte of the buffer (41_framer.md R157 to R159). -/
theorem checksumRecord_eq {pkt : List PktByte} (h : pkt ≠ []) :
    let last := pkt.getLastD ⟨0, 0, 0⟩
    let x := xorBytes (pkt.map PktByte.val).dropLast
    checksumRecord pkt =
      if pkt.length = 1 then ⟨7, last.start, last.stop, 2, 0, 0, 0⟩
      else ⟨7, last.start, last.stop, if x = last.val then 0 else 1, BitVec.ofNat 32 x.toNat,
        BitVec.ofNat 32 last.val.toNat, 0⟩ := by
  obtain ⟨front, last, rfl⟩ := List.eq_nil_or_concat' pkt |>.resolve_left h
  simp [checksumRecord_append]

/-- Finalisation puts the FIELD records of the decoder engine between the BYTE records and the last two (41_framer.md
R155). -/
theorem finalise_fields (m1 m3 : Ts) (s : State) :
    ∃ fs : List Field, decodeAndRun s = .next ((s.emitFields fs).withCur Cursor.idle) ∧
      finalise m1 m3 s = .next ((s.emit (byteRecords 0 s.dp.pkt ++ fs.map (fieldRecord s.dp.pkt) ++
        [checksumRecord s.dp.pkt, ⟨8, m1, m3, 0, 0, 0, 0⟩])).withCur Cursor.idle) := by
  obtain ⟨fs, hdecode, hafter⟩ := decodeAndRun_emits_same s (s.outq ++ byteRecords 0 s.dp.pkt)
  refine ⟨fs, hdecode, ?_⟩
  have hdecoded : decodeAndRun (s.emit (byteRecords 0 s.dp.pkt)) = _ := hafter
  rw [finalise, hdecoded, andThen_next, ← State.emit_emit, ← State.emit_emit]
  rfl

/-- Settles O42: the records of the finalisation, each written as the rules state it. -/
theorem finaliseEmitsInOrder : Obligations.FinaliseEmitsInOrder := by
  intro s m1 m3 hcur hpkt pkt bytes last x
  obtain ⟨fs, hdecode, hfinal⟩ := finalise_fields m1 m3 s
  have hbytes := byteRecords_eq_mapIdx 0 s.dp.pkt
  simp only [Nat.zero_add] at hbytes
  refine ⟨fs.map (fieldRecord s.dp.pkt), ?_, ?_, ?_⟩
  · simp only [List.mem_map]
    rintro _ ⟨f, -, rfl⟩
    exact fieldRecord_kind _ f
  · rw [hdecode, ← hcur]
    rfl
  · rw [hfinal, hbytes, checksumRecord_eq hpkt, ← hcur]
    rfl

/-! ### After the BIT record -/

/-- A state with the BIT record of `w` emitted and the short-pulse sum, which it reports, cleared (41_framer.md R145). -/
def State.reportBit (s : State) (w : LineBit) : State :=
  (s.emit [w.record s.dp.accShort.toNat]).withDp { s.dp with accShort := 0 }

@[simp] theorem State.reportBit_fsm (s : State) (w : LineBit) : (s.reportBit w).dp.fsm = s.dp.fsm := rfl
@[simp] theorem State.reportBit_bitcnt (s : State) (w : LineBit) : (s.reportBit w).dp.bitcnt = s.dp.bitcnt := rfl

/-- A ONE or a ZERO window moves the framer by its bit after the BIT record. -/
theorem framer_reportBit (w : LineBit) (s : State) :
    framer (if w.bit then .one else .zero) w.stretched w.start w.stop s =
      frameBit w.bit w.start w.stop (s.reportBit w) := framer_bit w s

/-- Records that follow the BIT record are pending behind it. -/
theorem State.reportBit_emit (s : State) (w : LineBit) (rs : List Record) (d : Datapath) :
    ((s.reportBit w).emit rs).withDp d =
      { s with outq := s.outq ++ w.record s.dp.accShort.toNat :: rs, dp := d } := by
  simp [State.reportBit, State.emit, State.withDp]

theorem resync_reportBit (reason count : Word) (a b : Ts) (s : State) (w : LineBit) :
    resync reason count a b (s.reportBit w) = { s with
      outq := s.outq ++ [w.record s.dp.accShort.toNat, ⟨3, a, b, reason, count, 0, 0⟩]
      dp := { s.dp with fsm := .wait, pkt := [], accShort := 0 } } :=
  State.reportBit_emit ..

/-! ### The preamble -/

/-- A bit in WAIT (41_framer.md R146, R147). -/
theorem framer_wait (w : LineBit) {s : State} (hfsm : s.dp.fsm = .wait) :
    framer (if w.bit then .one else .zero) w.stretched w.start w.stop s =
      .next (bitInWait w.bit w.start (s.reportBit w)) := by
  rw [framer_reportBit, frameBit, State.reportBit_fsm, hfsm]

/-- A bit in PRE (41_framer.md R148 to R150). -/
theorem framer_pre (w : LineBit) {s : State} (hfsm : s.dp.fsm = .pre) :
    framer (if w.bit then .one else .zero) w.stretched w.start w.stop s =
      .next (bitInPre w.bit w.stop (s.reportBit w)) := by
  rw [framer_reportBit, frameBit, State.reportBit_fsm, hfsm]

/-- A Zero after at least 10 Ones is the start bit (41_framer.md R149). -/
theorem bitInPre_starts (t3 : Ts) {s : State} (hcount : 10 ≤ s.dp.preCnt.toNat) :
    bitInPre false t3 s =
      (s.emit [⟨4, s.dp.preStart, t3, BitVec.ofNat 32 s.dp.preCnt.toNat, 0, 0, 0⟩]).withDp
        { s.dp with fsm := .data, bitcnt := 0, acc := 0, pkt := [] } := by
  rw [← arg_eq_ofNat]
  exact if_pos hcount

/-- A Zero after fewer Ones is no start bit (41_framer.md R150). -/
theorem bitInPre_resyncs (t3 : Ts) {s : State} (hcount : s.dp.preCnt.toNat < 10) :
    bitInPre false t3 s = resync 3 (BitVec.ofNat 32 s.dp.preCnt.toNat) s.dp.preStart t3 s := by
  rw [← arg_eq_ofNat]
  exact if_neg (Nat.not_le.2 hcount)

/-- Settles O39: after the BIT record, each rule of WAIT and of PRE on the state with the short-pulse sum cleared. -/
theorem preambleBits : Obligations.PreambleBits := by
  intro s bit stretched t1 t3 c rec1 d
  refine ⟨?_, ?_, ?_, ?_, ?_⟩
  · rintro hfsm rfl
    exact framer_wait ⟨true, stretched, t1, t3⟩ hfsm
  · rintro hfsm rfl
    exact framer_wait ⟨false, stretched, t1, t3⟩ hfsm
  · rintro hfsm rfl
    exact framer_pre ⟨true, stretched, t1, t3⟩ hfsm
  · rintro hfsm rfl hcount
    refine (framer_pre ⟨false, stretched, t1, t3⟩ hfsm).trans ?_
    rw [bitInPre_starts t3 (s := s.reportBit _) hcount, State.reportBit_emit]
    rfl
  · rintro hfsm rfl hcount
    refine (framer_pre ⟨false, stretched, t1, t3⟩ hfsm).trans ?_
    rw [bitInPre_resyncs t3 (s := s.reportBit _) hcount, resync_reportBit]
    rfl

/-! ### The marker bit -/

/-- The bit after eight data bits (41_framer.md R152 to R154). -/
theorem framer_marker (w : LineBit) {s : State} (hfsm : s.dp.fsm = .data) (hbit : s.dp.bitcnt = 8) :
    framer (if w.bit then .one else .zero) w.stretched w.start w.stop s =
      markerBit w.bit w.start w.stop (s.reportBit w) := by
  have hfull : ¬ (s.reportBit w).dp.bitcnt < 8 := by
    rw [State.reportBit_bitcnt, hbit]
    exact Nat.lt_irrefl 8
  rw [framer_reportBit, frameBit, State.reportBit_fsm, hfsm]
  exact if_neg hfull

/-- Over a full buffer either marker is TOO_LONG (41_framer.md R152, 60_exceptions.md R326). -/
theorem markerBit_full (bit : Bool) (t1 t3 : Ts) {s : State} (hlen : s.dp.pkt.length = 16) :
    markerBit bit t1 t3 s = .next (resync 4 16 (s.dp.pkt.getD 0 ⟨0, 0, 0⟩).start t3 s) := by
  rw [← byteStartAt_eq]
  exact if_pos hlen.ge

/-- Over a buffer with room a Zero begins another byte (41_framer.md R153). -/
theorem markerBit_zero (t1 t3 : Ts) {s : State} (hlen : s.dp.pkt.length < 16) :
    markerBit false t1 t3 s = .next (s.withDp { s.dp with pkt := pktWithByte s.dp, bitcnt := 0, acc := 0 }) :=
  if_neg (Nat.not_le.2 hlen)

/-- Settles O41: after the BIT record, each rule of the marker bit on the state with the short-pulse sum cleared. -/
theorem markerBits : Obligations.MarkerBits := by
  intro s bit stretched t1 t3 hfsm hbit c rec1 pkt
  refine ⟨fun hlen => ?_, ?_, ?_⟩
  · refine (framer_marker ⟨bit, stretched, t1, t3⟩ hfsm hbit).trans ?_
    rw [markerBit_full (s := s.reportBit _) _ _ _ hlen, resync_reportBit]
    rfl
  · rintro hlen rfl
    exact (framer_marker ⟨false, stretched, t1, t3⟩ hfsm hbit).trans (markerBit_zero t1 t3 hlen)
  · rintro hlen rfl
    let u := s.reportBit ⟨true, stretched, t1, t3⟩
    obtain ⟨rs, hfinal⟩ := finalise_emits t1 t3 (u.withDp { u.dp with pkt := pktWithByte u.dp })
    refine ⟨_, hfinal, (framer_reportBit ⟨true, stretched, t1, t3⟩ s).trans ?_⟩
    rw [frameBit_packetEnd (s := u) t1 t3 hfsm hbit hlen, hfinal]
    rfl

end Sys2Proof.Machine
end

section
/-! The grammar on the bytes the encoder writes: what each place of an instruction, and each address byte before it, is
decoded to (42_dispatch.md R185 to R200, 43_multifunction.md R220, 44_cv_access.md R280, R298). -/

namespace Sys2Proof.Machine

/-! ### The third byte of an accessory packet -/

theorem cvShaped_iff (b : Byte) : cvShaped b = true ↔ b.toNat / 16 = 14 := by
  have hb := b.isLt
  rw [cvShaped, beq_iff_eq, ← BitVec.toNat_inj, BitVec.extractLsb'_toNat, Nat.shiftRight_eq_div_pow]
  change b.toNat / 16 % 16 = 14 ↔ _
  omega

/-- The third byte of an accessory packet is that of a CV access, in the words of 42_dispatch.md R195. -/
theorem head_any_cvShaped_iff (ops : List Byte) :
    ops.head?.any cvShaped = true ↔ ∃ e ∈ ops.head?, e.toNat / 16 = 14 := by
  simp [Option.any_eq_true, cvShaped_iff]

/-! ### CV access -/

theorem cvShaped_append (cc v : BitVec 2) : cvShaped (0b1110#4 ++ cc ++ v) = true := by
  rw [cvShaped, BitVec.extractLsb'_append_eq_of_le (by decide), BitVec.extractLsb'_append_eq_of_le (by decide)]
  rfl

/-- The two bits above the lowest choose the operation (44_cv_access.md R280 to R290). -/
theorem decodeCvAccess_fields (pos : Nat) (other : Bool) (cc v : BitVec 2) (ops : List Byte) :
    decodeCvAccess pos other (0b1110#4 ++ cc ++ v) ops =
      if cc = 0b01#2 then if 3 ≤ ops.length then .instr (.xpomRead v ops) else .instr (.pomVerify v ops)
      else if cc = 0b10#2 then if 3 ≤ ops.length then .instr (.xpomBit v ops) else .instr (.pomBit v ops)
      else if cc = 0b11#2 then if 3 ≤ ops.length then .instr (.xpomWrite v ops) else .instr (.pomWrite v ops)
      else .reject (.unknown pos other) := by
  have hcc : (0b1110#4 ++ cc ++ v).extractLsb' 2 2 = cc := by
    rw [BitVec.extractLsb'_append_eq_of_le (by decide), BitVec.extractLsb'_append_eq_right]
  have hv : (0b1110#4 ++ cc ++ v).extractLsb' 0 2 = v := BitVec.extractLsb'_append_eq_right
  simp only [decodeCvAccess, hcc, hv]

/-- An opcode that is CV-shaped is one of class 111 with bit 4 clear (44_cv_access.md R280). -/
theorem decodeMf_cvShaped (pos : Nat) (other : Bool) {op : Byte} (hop : cvShaped op = true) (ops : List Byte) :
    decodeMf pos other (op :: ops) = decodeCvAccess pos other op ops := by
  have hnum := (cvShaped_iff op).1 hop
  have hclass : (op.extractLsb' 5 3).toNat = 7 := by
    rw [BitVec.extractLsb'_toNat, Nat.shiftRight_eq_div_pow]
    omega
  have hbit : op.extractLsb' 4 1 = 0#1 := by
    rw [← BitVec.toNat_inj, BitVec.extractLsb'_toNat, Nat.shiftRight_eq_div_pow]
    change op.toNat / 16 % 2 = 0
    omega
  simp only [decodeMf, hclass, hbit, if_true]

/-- The operands choose between the POM and the XPOM form, after every header (44_cv_access.md R280). -/
theorem decodeCvAccess_encode {i : Instr} (hplace : i.place = .cvAccess) (hok : i.operandsOk = true) :
    ∃ op ops, encode i = op :: ops ∧ cvShaped op = true ∧
      ∀ pos other, decodeCvAccess pos other op ops = .instr i := by
  have hpom {ops : List Byte} (h : decide (ops.length ≤ 2) = true) : ¬ 3 ≤ ops.length :=
    Nat.not_le.2 (Nat.lt_succ_of_le (of_decide_eq_true h))
  cases i with
  | pomVerify v ops =>
    exact ⟨_, ops, rfl, cvShaped_append 1 v, fun _ _ => (decodeCvAccess_fields _ _ 1 v ops).trans (if_neg (hpom hok))⟩
  | pomBit v ops =>
    exact ⟨_, ops, rfl, cvShaped_append 2 v, fun _ _ => (decodeCvAccess_fields _ _ 2 v ops).trans (if_neg (hpom hok))⟩
  | pomWrite v ops =>
    exact ⟨_, ops, rfl, cvShaped_append 3 v, fun _ _ => (decodeCvAccess_fields _ _ 3 v ops).trans (if_neg (hpom hok))⟩
  | xpomRead v ops =>
    exact ⟨_, ops, rfl, cvShaped_append 1 v,
      fun _ _ => (decodeCvAccess_fields _ _ 1 v ops).trans (if_pos (of_decide_eq_true hok))⟩
  | xpomBit v ops =>
    exact ⟨_, ops, rfl, cvShaped_append 2 v,
      fun _ _ => (decodeCvAccess_fields _ _ 2 v ops).trans (if_pos (of_decide_eq_true hok))⟩
  | xpomWrite v ops =>
    exact ⟨_, ops, rfl, cvShaped_append 3 v,
      fun _ _ => (decodeCvAccess_fields _ _ 3 v ops).trans (if_pos (of_decide_eq_true hok))⟩
  | _ => cases hplace

/-! ### Multi-function instructions -/

/-- The class of `CCCxxxxx`, and the four bits below its last, choose the instruction (43_multifunction.md R220). -/
theorem decodeMf_fields (pos : Nat) (other : Bool) (cls : BitVec 3) (c : BitVec 1) (low : BitVec 4) (ops : List Byte) :
    decodeMf pos other ((cls ++ c ++ low) :: ops) =
      match cls.toNat with
      | 0 => decodeControl pos other (cls ++ c ++ low) ops
      | 1 => decodeAdvanced pos other (cls ++ c ++ low) ops
      | 2 => .instr (.speedRev c low ops)
      | 3 => .instr (.speedFwd c low ops)
      | 4 => .instr (.fg1 c low ops)
      | 5 => if c = 1#1 then .instr (.fg2F5F8 low ops) else .instr (.fg2F9F12 low ops)
      | 6 => decodeFeature pos other (cls ++ c ++ low) ops
      | _ =>
        if c = 0#1 then decodeCvAccess pos other (cls ++ c ++ low) ops
        else decodeShortForm pos other (cls ++ c ++ low) ops := by
  have hcls : (cls ++ c ++ low).extractLsb' 5 3 = cls := by
    rw [BitVec.extractLsb'_append_eq_of_le (by decide), BitVec.extractLsb'_append_eq_of_le (by decide)]
    exact BitVec.extractLsb'_eq_self
  have hc : (cls ++ c ++ low).extractLsb' 4 1 = c := by
    rw [BitVec.extractLsb'_append_eq_of_le (by decide), BitVec.extractLsb'_append_eq_of_add_le (by decide)]
    exact BitVec.extractLsb'_eq_self
  have hlow : (cls ++ c ++ low).extractLsb' 0 4 = low := BitVec.extractLsb'_append_eq_right
  generalize cls ++ c ++ low = op at *
  subst hcls hc hlow
  rfl

/-- A time command is chosen by the two high bits of the byte after 0xC1 (43_multifunction.md R241). -/
theorem decodeMf_time (pos : Nat) (other : Bool) (form : BitVec 2) (low : BitVec 6) (ops : List Byte) :
    decodeMf pos other (0xC1#8 :: (form ++ low) :: ops) =
      if form = 0#2 then .instr (.modelTime low ops)
      else if form = 1#2 then .instr (.modelDate low ops)
      else if form = 2#2 then .instr (.systemTime low ops)
      else .reject (.unknown pos other) := by
  change decodeTime pos other ((form ++ low) :: ops) = _
  simp only [decodeTime, BitVec.extractLsb'_append_eq_left, BitVec.extractLsb'_append_eq_right]

/-- After every multi-function header the grammar reads the encoding of an instruction as that instruction. -/
theorem readsAs_encode {i : Instr} (hplace : i.place = .multiFunction ∨ i.place = .cvAccess)
    (hok : i.operandsOk = true) : readsAs (encode i) i := by
  rcases hplace with hplace | hplace
  · intro pos other
    cases i with
    | factoryTest f ops => obtain rfl | rfl := f.eq_zero_or_eq_one <;> rfl
    | setDecoderFlags f ops => obtain rfl | rfl := f.eq_zero_or_eq_one <;> rfl
    | setAdvAddr f ops => obtain rfl | rfl := f.eq_zero_or_eq_one <;> rfl
    | ackRequest f ops => obtain rfl | rfl := f.eq_zero_or_eq_one <;> rfl
    | speedRev c speed ops => exact decodeMf_fields pos other 2 c speed ops
    | speedFwd c speed ops => exact decodeMf_fields pos other 3 c speed ops
    | fg1 f0 f ops => exact decodeMf_fields pos other 4 f0 f ops
    | fg2F5F8 f ops => exact decodeMf_fields pos other 5 1 f ops
    | fg2F9F12 f ops => exact decodeMf_fields pos other 5 0 f ops
    | modelTime minute ops => exact decodeMf_time pos other 0 minute ops
    | modelDate low ops => exact decodeMf_time pos other 1 low ops
    | systemTime low ops => exact decodeMf_time pos other 2 low ops
    | pomVerify _ _ | pomBit _ _ | pomWrite _ _ | xpomRead _ _ | xpomBit _ _ | xpomWrite _ _ => cases hplace
    | smDirectVerify _ _ | smDirectBit _ _ | smDirectWrite _ _ | smRegVerify _ _ | smRegWrite _ _ => cases hplace
    | accBasic _ _ _ _ _ _ | accExt _ _ _ _ | accNop _ _ _ _ _ | idle _ | sysCmd _ _ => cases hplace
    | _ => rfl
  · obtain ⟨op, ops, hencode, hop, hdecode⟩ := decodeCvAccess_encode hplace hok
    intro pos other
    rw [hencode, decodeMf_cvShaped pos other hop, hdecode]

end Sys2Proof.Machine
end

section
/-! Dispatch on byte 0: what each address byte, and each shape of an accessory or service-mode packet, is decoded to
(42_dispatch.md R185 to R200, 44_cv_access.md R298), and from that the decoder on the encoding of a header and an
instruction. -/

namespace Sys2Proof.Machine

/-! ### Byte 0 -/

/-- Byte 0 of 1 to 127 is a 7-bit address, but 112 to 127 in service mode (42_dispatch.md R187, R188). -/
theorem decodePacket_mf7 {svc : Bool} {a : BitVec 7} (h0 : a ≠ 0) (hsvc : ¬ (svc && decide (112 ≤ a.toNat)) = true)
    (rest : List Byte) :
    decodePacket svc ((0#1 ++ a) :: rest) = ⟨.mf7 a, decodeMf 1 (decide (112 ≤ a.toNat)) rest⟩ := by
  have hlow : (0#1 ++ a).extractLsb' 0 7 = a := BitVec.extractLsb'_append_eq_right
  have hnum : (0#1 ++ a).toNat = a.toNat := by
    rw [toNat_append_eq_add]
    exact Nat.zero_add _
  have hpos : a.toNat ≠ 0 := fun h => h0 (BitVec.eq_of_toNat_eq h)
  have hlt := a.isLt
  simp only [decodePacket, hlow, hnum]
  rw [if_neg hpos, if_pos (by omega), if_neg hsvc]

theorem decodePacket_service {a : Byte} (h112 : 112 ≤ a.toNat) (h127 : a.toNat ≤ 127) (rest : List Byte) :
    decodePacket true (a :: rest) = ⟨.bare, decodeService a rest⟩ := by
  have hsvc : (true && decide (112 ≤ a.toNat)) = true := decide_eq_true h112
  simp only [decodePacket]
  rw [if_neg (by omega), if_pos (by omega), if_pos hsvc]

theorem decodePacket_accessory (svc : Bool) {a : Byte} (h128 : 128 ≤ a.toNat) (h191 : a.toNat ≤ 191)
    (rest : List Byte) : decodePacket svc (a :: rest) = decodeAccessory a rest := by
  simp only [decodePacket]
  rw [if_neg (by omega), if_neg (by omega), if_pos (by omega)]

/-- An address of 128 to 231 is of two bytes (42_dispatch.md R189, R193). -/
theorem decodePacket_cutOff (svc : Bool) {a : Byte} (h128 : 128 ≤ a.toNat) (h231 : a.toNat ≤ 231) :
    decodePacket svc [a] = ⟨.bare, .reject (.missing 1)⟩ := by
  simp only [decodePacket]
  rw [if_neg (by omega), if_neg (by omega)]
  split
  · rfl
  · rw [if_pos (by omega)]

theorem decodePacket_mf14 (svc : Bool) {hi : BitVec 6} (h39 : hi.toNat ≤ 39) (lo : Byte) (rest : List Byte) :
    decodePacket svc ((0b11#2 ++ hi) :: lo :: rest) = ⟨.mf14 hi lo, decodeMf 2 false rest⟩ := by
  have hlow : (0b11#2 ++ hi).extractLsb' 0 6 = hi := BitVec.extractLsb'_append_eq_right
  have hnum : (0b11#2 ++ hi).toNat = 192 + hi.toNat := toNat_append_eq_add 3#2 hi
  simp only [decodePacket, hlow, hnum]
  rw [if_neg (by omega), if_neg (by omega), if_neg (by omega), if_pos (by omega)]

theorem decodePacket_reservedAddress (svc : Bool) {a : Byte} (h232 : 232 ≤ a.toNat) (h254 : a.toNat ≤ 254)
    (rest : List Byte) : decodePacket svc (a :: rest) = ⟨.reserved a, .reject .reservedAddress⟩ := by
  simp only [decodePacket]
  rw [if_neg (by omega), if_neg (by omega), if_neg (by omega), if_neg (by omega), if_pos (by omega)]

/-- The `other` flag of 42_dispatch.md R184 as the decoder passes it on. -/
def isOther (h : Header) : Bool := otherFlag h == 1

/-- Every header a multi-function instruction may follow is decoded to itself, and the instruction after it. -/
theorem decodePacket_mfHeader {svc : Bool} {h : Header} (hh : mfHeader svc h = true) (rest : List Byte) :
    decodePacket svc (encodeHeader h ++ rest) = ⟨h, decodeMf h.size (isOther h) rest⟩ := by
  cases h with
  | broadcast => rfl
  | mf7 a =>
    obtain ⟨h0, hsvc⟩ : a ≠ 0 ∧ ¬ (svc && decide (112 ≤ a.toNat)) = true := by
      rw [Bool.not_eq_true]
      simpa only [mfHeader, Bool.and_eq_true, bne_iff_ne, Bool.not_eq_true'] using hh
    have hother : isOther (.mf7 a) = decide (112 ≤ a.toNat) := by
      unfold isOther
      by_cases h112 : 112 ≤ a.toNat <;> simp [otherFlag, h112]
    rw [hother]
    exact decodePacket_mf7 h0 hsvc rest
  | mf14 hi lo => exact decodePacket_mf14 svc (of_decide_eq_true hh) lo rest
  | bare | reserved _ | idleSystem | accPom _ _ _ _ | accExtPom _ _ _ => cases hh

/-! ### Service mode -/

/-- A direct packet `0111CCAA` with two bytes after it (44_cv_access.md R299 to R302). -/
theorem decodePacket_direct (cc a : BitVec 2) (v d : Byte) :
    decodePacket true [0b0111#4 ++ cc ++ a, v, d] = ⟨.bare,
      if cc = 0b01#2 then .instr (.smDirectVerify a [v, d])
      else if cc = 0b10#2 then .instr (.smDirectBit a [v, d])
      else if cc = 0b11#2 then .instr (.smDirectWrite a [v, d])
      else .reject (.unknown 0 false)⟩ := by
  have hnum : (0b0111#4 ++ cc ++ a).toNat = (28 + cc.toNat) * 4 + a.toNat := by
    rw [toNat_append_eq_add, toNat_append_eq_add]
    rfl
  have hcc : (0b0111#4 ++ cc ++ a).extractLsb' 2 2 = cc := by
    rw [BitVec.extractLsb'_append_eq_of_le (by decide), BitVec.extractLsb'_append_eq_right]
  have ha : (0b0111#4 ++ cc ++ a).extractLsb' 0 2 = a := BitVec.extractLsb'_append_eq_right
  rw [decodePacket_service (by omega) (by omega)]
  simp only [decodeService, List.length_cons, List.length_nil, Nat.zero_add, Nat.reduceAdd, hcc, ha]

/-- A register packet `0111CRRR` with one byte after it (44_cv_access.md R303, R304). -/
theorem decodePacket_register (c : BitVec 1) (r : BitVec 3) (d : Byte) :
    decodePacket true [0b0111#4 ++ c ++ r, d] =
      ⟨.bare, if c = 0#1 then .instr (.smRegVerify r [d]) else .instr (.smRegWrite r [d])⟩ := by
  have hnum : (0b0111#4 ++ c ++ r).toNat = (14 + c.toNat) * 8 + r.toNat := by
    rw [toNat_append_eq_add, toNat_append_eq_add]
    rfl
  have hc : (0b0111#4 ++ c ++ r).extractLsb' 3 1 = c := by
    rw [BitVec.extractLsb'_append_eq_of_le (by decide), BitVec.extractLsb'_append_eq_right]
  have hr : (0b0111#4 ++ c ++ r).extractLsb' 0 3 = r := BitVec.extractLsb'_append_eq_right
  rw [decodePacket_service (by omega) (by omega)]
  simp only [decodeService, List.length_cons, List.length_nil, Nat.zero_add, hc, hr]

/-- The encoding of a service-mode instruction is read as that instruction in service mode. -/
theorem decodePacket_service_encode {i : Instr} (hplace : i.place = .service) (hok : i.operandsOk = true) :
    decodePacket true (encode i) = ⟨.bare, .instr i⟩ := by
  have htwo {ops : List Byte} (h : (ops.length == 2) = true) : ∃ v d, ops = [v, d] :=
    List.length_eq_two.1 (beq_iff_eq.1 h)
  have hone {ops : List Byte} (h : (ops.length == 1) = true) : ∃ d, ops = [d] :=
    List.length_eq_one_iff.1 (beq_iff_eq.1 h)
  cases i with
  | smDirectVerify a ops =>
    obtain ⟨v, d, rfl⟩ := htwo hok
    exact decodePacket_direct 1 a v d
  | smDirectBit a ops =>
    obtain ⟨v, d, rfl⟩ := htwo hok
    exact decodePacket_direct 2 a v d
  | smDirectWrite a ops =>
    obtain ⟨v, d, rfl⟩ := htwo hok
    exact decodePacket_direct 3 a v d
  | smRegVerify r ops =>
    obtain ⟨d, rfl⟩ := hone hok
    exact decodePacket_register 0 r d
  | smRegWrite r ops =>
    obtain ⟨d, rfl⟩ := hone hok
    exact decodePacket_register 1 r d
  | _ => cases hplace

end Sys2Proof.Machine
end

section
/-! The accessory, idle and system packets, and the decoder on the encoding of a header and an instruction
(42_dispatch.md R191 to R200). -/

namespace Sys2Proof.Machine

/-! ### The shapes of an accessory packet -/

section
variable {a b : Byte}

theorem decodeAccessory_basic (h7 : b.extractLsb' 7 1 = 1#1) {ops : List Byte}
    (hops : ¬ ops.head?.any cvShaped = true) :
    decodeAccessory a (b :: ops) = ⟨.bare, .instr (.accBasic (a.extractLsb' 0 6) (b.extractLsb' 4 3) (b.extractLsb' 3 1)
      (b.extractLsb' 1 2) (b.extractLsb' 0 1) ops)⟩ := by
  simp only [decodeAccessory]
  rw [if_pos h7]
  cases ops with
  | nil => rfl
  | cons op more => exact if_neg hops

theorem decodeAccessory_pom (h7 : b.extractLsb' 7 1 = 1#1) {op : Byte} (hop : cvShaped op = true) (more : List Byte) :
    decodeAccessory a (b :: op :: more) = ⟨.accPom (a.extractLsb' 0 6) (b.extractLsb' 4 3) (b.extractLsb' 3 1)
      (b.extractLsb' 0 3), decodeCvAccess 2 false op more⟩ := by
  simp only [decodeAccessory]
  rw [if_pos h7, if_pos hop]

theorem decodeAccessory_nop (h7 : b.extractLsb' 7 1 ≠ 1#1) (h3 : b.extractLsb' 3 1 = 1#1) (ops : List Byte) :
    decodeAccessory a (b :: ops) = ⟨.bare, .instr (.accNop (a.extractLsb' 0 6) (b.extractLsb' 4 3) (b.extractLsb' 1 2)
      (b.extractLsb' 0 1) ops)⟩ := by
  simp only [decodeAccessory]
  rw [if_neg h7, if_pos h3]

theorem decodeAccessory_extended (h7 : b.extractLsb' 7 1 ≠ 1#1) (h3 : b.extractLsb' 3 1 ≠ 1#1)
    (h0 : b.extractLsb' 0 1 = 1#1) {ops : List Byte} (hops : ¬ (2 ≤ ops.length ∧ ops.head?.any cvShaped = true)) :
    decodeAccessory a (b :: ops) =
      ⟨.bare, .instr (.accExt (a.extractLsb' 0 6) (b.extractLsb' 4 3) (b.extractLsb' 1 2) ops)⟩ := by
  simp only [decodeAccessory]
  rw [if_neg h7, if_neg h3, if_pos h0]
  match ops with
  | [] => rfl
  | [op] => rfl
  | op :: second :: more => exact if_neg fun hop => hops ⟨Nat.le_add_left 2 _, hop⟩

theorem decodeAccessory_extendedPom (h7 : b.extractLsb' 7 1 ≠ 1#1) (h3 : b.extractLsb' 3 1 ≠ 1#1)
    (h0 : b.extractLsb' 0 1 = 1#1) {op : Byte} (hop : cvShaped op = true) {more : List Byte} (hmore : more ≠ []) :
    decodeAccessory a (b :: op :: more) =
      ⟨.accExtPom (a.extractLsb' 0 6) (b.extractLsb' 4 3) (b.extractLsb' 1 2), decodeCvAccess 2 false op more⟩ := by
  obtain ⟨second, tail, rfl⟩ := List.exists_cons_of_ne_nil hmore
  simp only [decodeAccessory]
  rw [if_neg h7, if_neg h3, if_pos h0, if_pos hop]

theorem decodeAccessory_reserved (h7 : b.extractLsb' 7 1 ≠ 1#1) (h3 : b.extractLsb' 3 1 ≠ 1#1)
    (h0 : b.extractLsb' 0 1 ≠ 1#1) (ops : List Byte) :
    decodeAccessory a (b :: ops) = ⟨.bare, .reject (.unknown 0 false)⟩ := by
  simp only [decodeAccessory]
  rw [if_neg h7, if_neg h3, if_neg h0]

end

/-! ### The bytes the encoder writes -/

/-- Byte 0 of every accessory packet the encoder writes. -/
theorem decodePacket_accessory_append (svc : Bool) (lo : BitVec 6) (rest : List Byte) :
    decodePacket svc ((0b10#2 ++ lo) :: rest) = decodeAccessory (0b10#2 ++ lo) rest := by
  have hnum : (0b10#2 ++ lo).toNat = 128 + lo.toNat := toNat_append_eq_add 2#2 lo
  have hlo := lo.isLt
  exact decodePacket_accessory svc (by omega) (by omega) rest

/-- The fields of byte 1 of an accessory packet, `GaaaDPPR` (42_dispatch.md R193). -/
theorem accessoryByte_fields (g : BitVec 1) (hi : BitVec 3) (d : BitVec 1) (port : BitVec 2) (r : BitVec 1) :
    (g ++ hi ++ d ++ port ++ r).extractLsb' 7 1 = g ∧ (g ++ hi ++ d ++ port ++ r).extractLsb' 4 3 = hi ∧
    (g ++ hi ++ d ++ port ++ r).extractLsb' 3 1 = d ∧ (g ++ hi ++ d ++ port ++ r).extractLsb' 1 2 = port ∧
    (g ++ hi ++ d ++ port ++ r).extractLsb' 0 1 = r := by
  simp only [BitVec.extractLsb'_append_eq_ite]
  refine ⟨?_, ?_, ?_, ?_, ?_⟩ <;> exact BitVec.extractLsb'_eq_self

/-- The same of a basic POM, `1AAACDDD` (42_dispatch.md R195). -/
theorem pomByte_fields (g : BitVec 1) (hi : BitVec 3) (c : BitVec 1) (ddd : BitVec 3) :
    (g ++ hi ++ c ++ ddd).extractLsb' 7 1 = g ∧ (g ++ hi ++ c ++ ddd).extractLsb' 4 3 = hi ∧
    (g ++ hi ++ c ++ ddd).extractLsb' 3 1 = c ∧ (g ++ hi ++ c ++ ddd).extractLsb' 0 3 = ddd := by
  simp only [BitVec.extractLsb'_append_eq_ite]
  refine ⟨?_, ?_, ?_, ?_⟩ <;> exact BitVec.extractLsb'_eq_self

theorem decodePacket_accPom (svc : Bool) (lo : BitVec 6) (hi : BitVec 3) (c : BitVec 1) (ddd : BitVec 3) {op : Byte}
    (hop : cvShaped op = true) (ops : List Byte) :
    decodePacket svc (encodeHeader (.accPom lo hi c ddd) ++ op :: ops) =
      ⟨.accPom lo hi c ddd, decodeCvAccess 2 false op ops⟩ := by
  obtain ⟨h7, hhi, hc, hddd⟩ := pomByte_fields 1 hi c ddd
  refine (decodePacket_accessory_append svc lo _).trans ((decodeAccessory_pom h7 hop ops).trans ?_)
  rw [BitVec.extractLsb'_append_eq_right, hhi, hc, hddd]

theorem decodePacket_accExtPom (svc : Bool) (lo : BitVec 6) (hi : BitVec 3) (port : BitVec 2) {op : Byte}
    (hop : cvShaped op = true) {ops : List Byte} (hops : ops ≠ []) :
    decodePacket svc (encodeHeader (.accExtPom lo hi port) ++ op :: ops) =
      ⟨.accExtPom lo hi port, decodeCvAccess 2 false op ops⟩ := by
  obtain ⟨h7, hhi, h3, hport, h0⟩ := accessoryByte_fields 0 hi 0 port 1
  refine (decodePacket_accessory_append svc lo _).trans ((decodeAccessory_extendedPom (by rw [h7]; decide)
    (by rw [h3]; decide) h0 hop hops).trans ?_)
  rw [BitVec.extractLsb'_append_eq_right, hhi, hport]

/-- The encoding of an accessory, idle or system packet is read as that instruction, in either service mode. -/
theorem packetReadsAs_encode {i : Instr} (hplace : i.place = .packet) (hok : i.operandsOk = true) :
    packetReadsAs (encode i) i := by
  intro svc
  cases i with
  | accBasic lo hi d port r ops =>
    obtain ⟨h7, hhi, hd, hport, hr⟩ := accessoryByte_fields 1 hi d port r
    have hops : ¬ ops.head?.any cvShaped = true := by simpa [Instr.operandsOk] using hok
    refine (decodePacket_accessory_append svc lo _).trans ((decodeAccessory_basic h7 hops).trans ?_)
    rw [BitVec.extractLsb'_append_eq_right, hhi, hd, hport, hr]
  | accExt lo hi port ops =>
    obtain ⟨h7, hhi, h3, hport, h0⟩ := accessoryByte_fields 0 hi 0 port 1
    have hops : ¬ (2 ≤ ops.length ∧ ops.head?.any cvShaped = true) := by
      simpa [Instr.operandsOk, Nat.lt_iff_add_one_le, or_iff_not_imp_left] using hok
    refine (decodePacket_accessory_append svc lo _).trans ((decodeAccessory_extended (by rw [h7]; decide)
      (by rw [h3]; decide) h0 hops).trans ?_)
    rw [BitVec.extractLsb'_append_eq_right, hhi, hport]
  | accNop lo hi port t ops =>
    obtain ⟨h7, hhi, h3, hport, ht⟩ := accessoryByte_fields 0 hi 1 port t
    refine (decodePacket_accessory_append svc lo _).trans ((decodeAccessory_nop (by rw [h7]; decide) h3 ops).trans ?_)
    rw [BitVec.extractLsb'_append_eq_right, hhi, hport, ht]
  | idle ops => rfl
  | sysCmd n ops =>
    have hn : n ≠ 0#8 := by simpa [Instr.operandsOk] using hok
    exact congrArg (fun i => Packet.mk .bare (.instr i)) (if_neg hn)
  | _ => cases hplace

/-- Where an instruction may follow a header. -/
theorem headerFits_cases {svc : Bool} {h : Header} {i : Instr} (hfits : headerFits svc h i = true) :
    (h = .bare ∧ i.place = .service ∧ svc = true) ∨ (h = .bare ∧ i.place = .packet) ∨
    (mfHeader svc h = true ∧ (i.place = .multiFunction ∨ i.place = .cvAccess)) ∨
    ((∃ lo hi c ddd, h = .accPom lo hi c ddd) ∧ i.place = .cvAccess) ∨
    ((∃ lo hi port, h = .accExtPom lo hi port) ∧ i.place = .cvAccess ∧ 2 ≤ i.size) := by
  cases h with
  | bare =>
    cases hp : i.place with
    | multiFunction | cvAccess => simp [headerFits, hp] at hfits
    | service => exact .inl ⟨rfl, rfl, by simpa [headerFits, hp] using hfits⟩
    | packet => exact .inr (.inl ⟨rfl, rfl⟩)
  | broadcast => exact .inr (.inr (.inl ⟨rfl, by simpa [headerFits] using hfits⟩))
  | mf7 a =>
    simp only [headerFits, Bool.and_eq_true] at hfits
    obtain ⟨⟨hp, h0⟩, hsvc⟩ := hfits
    exact .inr (.inr (.inl ⟨by simp only [mfHeader, h0, hsvc, Bool.and_self], by simpa using hp⟩))
  | mf14 hi lo =>
    simp only [headerFits, Bool.and_eq_true] at hfits
    obtain ⟨hp, h39⟩ := hfits
    exact .inr (.inr (.inl ⟨h39, by simpa using hp⟩))
  | reserved _ | idleSystem => cases hfits
  | accPom lo hi c ddd => exact .inr (.inr (.inr (.inl ⟨⟨lo, hi, c, ddd, rfl⟩, by simpa [headerFits] using hfits⟩)))
  | accExtPom lo hi port =>
    exact .inr (.inr (.inr (.inr ⟨⟨lo, hi, port, rfl⟩, by simpa [headerFits] using hfits⟩)))

theorem length_encode (i : Instr) : (encode i).length = i.size := by
  cases i <;> (simp only [encode, Instr.size, List.length_cons]; omega)

/-- Decoding the encoding of a well-formed packet gives back its header and its instruction. -/
theorem decodePacket_encodePacket {svc : Bool} {h : Header} {i : Instr} (hwf : packetWf svc h i = true) :
    decodePacket svc (encodePacket h i) = ⟨h, .instr i⟩ := by
  simp only [packetWf, Instr.wf, Bool.and_eq_true] at hwf
  obtain ⟨⟨⟨hok, -⟩, hfits⟩, -⟩ := hwf
  rcases headerFits_cases hfits with ⟨rfl, hplace, rfl⟩ | ⟨rfl, hplace⟩ | ⟨hmf, hplace⟩ |
    ⟨⟨lo, hi, c, ddd, rfl⟩, hplace⟩ | ⟨⟨lo, hi, port, rfl⟩, hplace, hsize⟩
  · exact decodePacket_service_encode hplace hok
  · exact packetReadsAs_encode hplace hok svc
  · rw [encodePacket, decodePacket_mfHeader hmf, readsAs_encode hplace hok]
  · obtain ⟨op, ops, hencode, hop, hdecode⟩ := decodeCvAccess_encode hplace hok
    rw [encodePacket, hencode, decodePacket_accPom svc lo hi c ddd hop, hdecode]
  · obtain ⟨op, ops, hencode, hop, hdecode⟩ := decodeCvAccess_encode hplace hok
    have hops : ops ≠ [] := by
      rintro rfl
      rw [← length_encode, hencode] at hsize
      exact Nat.lt_irrefl 1 hsize
    rw [encodePacket, hencode, decodePacket_accExtPom svc lo hi port hop hops, hdecode]

end Sys2Proof.Machine
end

section
/-! What the accessory, idle and system packets report (42_dispatch.md R191 to R201). -/

namespace Sys2Proof.Machine

/-- The state after fields are emitted, in the words of the statements: their records behind the pending ones. -/
theorem emitFields_eq {s : State} {fs : List Field} {rs : List Record} (h : fs.map (fieldRecord s.dp.pkt) = rs) :
    s.emitFields fs = { s with outq := s.outq ++ rs } := by
  rw [← h]
  rfl

theorem instrField_record (s : State) (i id : Nat) :
    fieldRecord s.dp.pkt (instrField i (BitVec.ofNat 32 id)) = specField s i i 0x02 id 0 0 := fieldRecord_eq ..

theorem idleSystemField_record (s : State) :
    fieldRecord s.dp.pkt (addrField .idleSystem 255 0 0) = specField s 0 0 0x01 4 255 0 :=
  fieldRecord_eq s 0 0 0x01 4 255 0

/-- A field of one argument of at most 32 bits over one byte. -/
theorem field1_record (s : State) (i code : Nat) {n : Nat} (v : BitVec n) :
    fieldRecord s.dp.pkt ⟨BitVec.ofNat 32 code, arg v, 0, 0, i, i⟩ = specField s i i code v.toNat 0 0 := by
  rw [arg_eq_ofNat]
  exact fieldRecord_eq ..

/-- `ACC_EXT_ADDR(raw, user)` (42_dispatch.md R196, R201). -/
theorem accExtAddrField_record (s : State) (lo : BitVec 6) (hi : BitVec 3) (port : BitVec 2) :
    fieldRecord s.dp.pkt (accExtAddrField lo hi port s.accOffset) =
      let raw := (7 - hi.toNat) * 256 + lo.toNat * 4 + port.toNat
      specField s 0 1 0x34 raw (BitVec.ofInt 32 ((raw : Int) - 3 + s.accOffset.toInt)).toNat 0 := by
  rw [accExtAddrField, accUser_eq_ofNat, arg_eq_ofNat, accRaw_toNat]
  exact fieldRecord_eq ..

/-- `ACC_BASIC_ADDR(dec9, port, user)` (42_dispatch.md R194, R201). -/
theorem accBasicAddrField_record (s : State) (lo : BitVec 6) (hi : BitVec 3) (port : BitVec 2) :
    fieldRecord s.dp.pkt
        ⟨0x30, arg (accDecoder lo hi), arg port, accUser (accRaw lo hi port) s.accOffset, 0, 1⟩ =
      let dec9 := (7 - hi.toNat) * 64 + lo.toNat
      specField s 0 1 0x30 dec9 port.toNat
        (BitVec.ofInt 32 (((dec9 * 4 + port.toNat : Nat) : Int) - 3 + s.accOffset.toInt)).toNat := by
  have hraw : (7 - hi.toNat) * 256 + lo.toNat * 4 + port.toNat =
      ((7 - hi.toNat) * 64 + lo.toNat) * 4 + port.toNat := by omega
  rw [accUser_eq_ofNat, arg_eq_ofNat, arg_eq_ofNat, accDecoder_toNat, accRaw_toNat, hraw]
  exact fieldRecord_eq ..

/-- Settles O19: the decode clause is `packetReadsAs_encode`, and each field is the record of its rule. -/
theorem accessoryBasicReportsAddresses : Obligations.AccessoryBasicReportsAddresses := by
  intro lo hi d port r ops s _ dec9 user
  refine ⟨fun hops => packetReadsAs_encode (i := .accBasic ..) rfl ?_, congrArg Host.Outcome.next (emitFields_eq ?_)⟩
  · rw [← head_any_cvShaped_iff] at hops
    rwa [Instr.operandsOk, Bool.not_eq_true', ← Bool.not_eq_true]
  · have hcmd : fieldRecord s.dp.pkt ⟨0x31, arg d, arg r, 0, 1, 1⟩ = specField s 1 1 0x31 d.toNat r.toNat 0 := by
      rw [arg_eq_ofNat, arg_eq_ofNat]
      exact fieldRecord_eq ..
    rw [List.map_cons, List.map_cons, List.map_cons, unclaimed_records, accBasicAddrField_record, hcmd]
    exact congrArg (_ :: · :: _) (instrField_record s 1 0x38)

/-- Settles O20: the decode clauses are `packetReadsAs_encode`, and each field is the record of its rule. -/
theorem accessoryExtendedReportsAddresses : Obligations.AccessoryExtendedReportsAddresses := by
  intro lo hi port s raw addr
  have haddr : fieldRecord s.dp.pkt (accExtAddrField lo hi port s.accOffset) = addr :=
    accExtAddrField_record s lo hi port
  have hext : fieldRecord s.dp.pkt (instrField 1 0x39) = specField s 1 1 0x02 0x39 0 0 := instrField_record s 1 0x39
  refine ⟨fun ops hops => packetReadsAs_encode (i := .accExt ..) rfl ?_,
    fun t ops => packetReadsAs_encode (i := .accNop ..) rfl rfl,
    fun d rest _ => congrArg Host.Outcome.next (emitFields_eq ?_),
    fun _ => congrArg Host.Outcome.next (emitFields_eq ?_),
    fun t ops _ => congrArg Host.Outcome.next (emitFields_eq ?_)⟩
  · rw [← head_any_cvShaped_iff] at hops
    rwa [Instr.operandsOk, Bool.not_eq_true', ← Bool.not_eq_true, Bool.and_eq_true, decide_eq_true_eq]
  · rw [take_cons, List.map_cons, List.map_cons, List.map_cons, unclaimed_records, haddr, hext]
    exact congrArg (_ :: _ :: · :: _) (field1_record s 2 0x35 d)
  · rw [take_nil, List.map_cons, List.map_cons, List.map_cons, missing_record, haddr, hext]
    rfl
  · rw [List.map_cons, List.map_cons, List.map_cons, unclaimed_records, haddr]
    exact congrArg₂ (_ :: · :: · :: _) (instrField_record s 1 0x3A) (field1_record s 1 0x36 t)

/-- Settles O21: the decode clauses are `packetReadsAs_encode`, and each field is the record of its rule. -/
theorem idleAndSystemCommand : Obligations.IdleAndSystemCommand := by
  refine ⟨fun ops => packetReadsAs_encode (i := .idle ops) rfl rfl,
    fun n ops hn => packetReadsAs_encode (i := .sysCmd n ops) rfl (bne_iff_ne.2 hn),
    fun ops s _ => congrArg Host.Outcome.next (emitFields_eq ?_),
    fun n ops s _ _ => congrArg Host.Outcome.next (emitFields_eq ?_)⟩
  · rw [List.map_cons, List.map_cons, unclaimed_records, idleSystemField_record]
    exact congrArg (_ :: · :: _) (instrField_record s 1 0x3C)
  · rw [List.map_cons, List.map_cons, List.map_cons, perByte_map, idleSystemField_record]
    have hdata : (fun m (d : Byte) => fieldRecord s.dp.pkt ⟨0x39, arg d, 0, 0, 2 + m, 2 + m⟩) =
        fun m d => specField s (2 + m) (2 + m) 0x39 d.toNat 0 0 :=
      funext fun m => funext fun d => field1_record s (2 + m) 0x39 d
    rw [hdata]
    exact congrArg₂ (_ :: · :: · :: _) (instrField_record s 1 0x3D) (field1_record s 1 0x38 n)

end Sys2Proof.Machine
end

section
/-! What the FIELD records of a packet depend on (42_dispatch.md R203): two runs of the decoder engine side by side. -/

namespace Sys2Proof.Machine

/-- Of the state, the fields of an instruction depend on the cursor, SPEED14 and ACC_OFFSET only. -/
theorem exec_emits_congr (i : Instr) {s u : State} (hcur : s.cur = u.cur) (hspeed : s.speed14 = u.speed14)
    (hacc : s.accOffset = u.accOffset) :
    ∃ fs : List Field, exec i s = .next (s.emitFields fs) ∧ exec i u = .next (u.emitFields fs) := by
  have hu : u = { u with cur := s.cur, accOffset := s.accOffset } := by rw [hcur, hacc]
  rw [hu]
  cases i with
  | speedRev c speed ops => exact ⟨_, rfl, by rw [hspeed]; rfl⟩
  | speedFwd c speed ops => exact ⟨_, rfl, by rw [hspeed]; rfl⟩
  | fg1 f0 f ops => exact ⟨_, rfl, by rw [hspeed]; rfl⟩
  | _ => exact ⟨_, rfl, rfl⟩

/-- So do the fields of what follows the header. -/
theorem runBody_emits_congr (b : Body) (content : List Byte) {s u : State} (hcur : s.cur = u.cur)
    (hspeed : s.speed14 = u.speed14) (hacc : s.accOffset = u.accOffset) :
    ∃ fs : List Field, runBody b content s = .next (s.emitFields fs) ∧ runBody b content u = .next (u.emitFields fs) := by
  cases b with
  | instr i => exact exec_emits_congr i hcur hspeed hacc
  | reject r => exact ⟨_, rfl, rfl⟩

/-- The fields of a packet depend on its content, SERVICE_MODE, SPEED14 and ACC_OFFSET only. -/
theorem decodeAndRun_emits_congr {s u : State} (hcontent : specContent s.dp.pkt = specContent u.dp.pkt)
    (hsvc : s.serviceMode = u.serviceMode) (hspeed : s.speed14 = u.speed14) (hacc : s.accOffset = u.accOffset) :
    ∃ fs : List Field, decodeAndRun s = .next ((s.emitFields fs).withCur Cursor.idle) ∧
      decodeAndRun u = .next ((u.emitFields fs).withCur Cursor.idle) := by
  unfold decodeAndRun
  dsimp only
  rw [contentBytes_eq_specContent, contentBytes_eq_specContent, hcontent, hsvc, hacc]
  generalize decodePacket u.serviceMode (specContent u.dp.pkt) = p
  obtain ⟨fs, hs, hu⟩ := runBody_emits_congr p.body (specContent u.dp.pkt)
    (s := (s.emitFields (headerFields p.header u.accOffset)).withCur (headerCursor p.header))
    (u := (u.emitFields (headerFields p.header u.accOffset)).withCur (headerCursor p.header)) rfl hspeed hacc
  refine ⟨headerFields p.header u.accOffset ++ fs, ?_, ?_⟩
  · rw [State.emitFields_append]
    exact congrArg (andThen · _) hs
  · rw [State.emitFields_append]
    exact congrArg (andThen · _) hu

/-- A FIELD record takes the packet's sample ranges only, not its bytes. -/
theorem fieldRecord_congr {pkt pkt' : List PktByte}
    (hranges : pkt.map (fun b => (b.start, b.stop)) = pkt'.map (fun b => (b.start, b.stop))) (f : Field) :
    fieldRecord pkt f = fieldRecord pkt' f := by
  have hbyte (k : Nat) : (pkt[k]?).map (fun b => (b.start, b.stop)) = (pkt'[k]?).map (fun b => (b.start, b.stop)) := by
    rw [← List.getElem?_map, ← List.getElem?_map, hranges]
  have hstart (k : Nat) : byteStartAt pkt k = byteStartAt pkt' k := by
    have h := congrArg (fun o => (o.map Prod.fst).getD 0) (hbyte k)
    simp only [Option.map_map] at h
    exact h
  have hstop (k : Nat) : byteEndAt pkt k = byteEndAt pkt' k := by
    have h := congrArg (fun o => (o.map Prod.snd).getD 0) (hbyte k)
    simp only [Option.map_map] at h
    exact h
  rw [fieldRecord, hstart, hstop]
  rfl

/-- Settles O23: the same fields, over the same ranges. -/
theorem fieldsDependOnPacketAndModeOnly : Obligations.FieldsDependOnPacketAndModeOnly := by
  intro s u hranges hcontent hsvc hspeed hacc
  obtain ⟨fs, hs, hu⟩ := decodeAndRun_emits_congr hcontent hsvc hspeed hacc
  refine ⟨fs.map (fieldRecord s.dp.pkt), ⟨_, hs, rfl⟩, ⟨_, hu, ?_⟩⟩
  have hrecords : fs.map (fieldRecord s.dp.pkt) = fs.map (fieldRecord u.dp.pkt) :=
    List.map_congr_left fun f _ => fieldRecord_congr hranges f
  rw [hrecords]
  rfl

end Sys2Proof.Machine
end

section
/-! The packet in the buffer: what is decoded is run after its header (42_dispatch.md R182, R186 to R198), and what holds
no instruction is reported as its rule states (R184, R190, R200). -/

namespace Sys2Proof.Machine

/-- The content of the packet in the buffer is what the decoder gets (42_dispatch.md R180). -/
theorem specContent_of_hasContent {s : State} {content : List Byte} (h : s.hasContent content) :
    specContent s.dp.pkt = content := by
  obtain ⟨hne, ⟨cs, hpkt⟩ | ⟨hone, hpkt⟩⟩ := h
  · have hlen : s.dp.pkt.length = content.length + 1 := by
      rw [← List.length_map (f := PktByte.val), hpkt, List.length_append, List.length_singleton]
    have htwo : 2 ≤ s.dp.pkt.length := hlen ▸ Nat.succ_le_succ (List.length_pos_iff.2 hne)
    rw [← contentBytes_eq_specContent, contentBytes, if_pos htwo, List.map_dropLast, hpkt, List.dropLast_concat]
  · have hlen : s.dp.pkt.length = 1 := by
      rw [← hone, ← hpkt, List.length_map]
    rw [← contentBytes_eq_specContent, contentBytes, if_neg (by omega), hpkt]

theorem specCursor_pos (h : Header) : (specCursor h).pos = (encodeHeader h).length := by
  cases h <;> rfl

/-- Settles O27: the content decodes to the header and the instruction it encodes. -/
theorem packetRunsItsInstruction : Obligations.PacketRunsItsInstruction := by
  intro h i s hwf hcontent
  refine ⟨specCursor_pos h, ?_⟩
  have hd : decodePacket s.serviceMode (specContent s.dp.pkt) = ⟨h, .instr i⟩ := by
    rw [specContent_of_hasContent hcontent, decodePacket_encodePacket hwf]
  obtain ⟨fs, hexec⟩ := exec_emits i ((s.emit (specHeader s h)).withCur (specCursor h))
  refine ⟨_, hexec, ?_⟩
  rw [decodeAndRun_instr hd, hexec]
  rfl

/-! ### Contents that hold no instruction -/

section
variable {s : State} {content : List Byte} {h : Header}

/-- A rejected content is reported by its header's records and those of the rejection; nothing else changes. -/
theorem decodeAndRun_reject {r : Reject} {rs : List Record} (hcur : s.cur = Cursor.idle) (hcontent : s.hasContent content)
    (hd : decodePacket (s.mode.getLsbD 0) content = ⟨h, .reject r⟩)
    (hrs : (rejectFields r content).map (fieldRecord s.dp.pkt) = rs) :
    decodeAndRun s = .next { s with outq := s.outq ++ (specHeader s h ++ rs) } := by
  have hd' : decodePacket s.serviceMode content = ⟨h, .reject r⟩ := hd
  unfold decodeAndRun
  dsimp only
  rw [contentBytes_eq_specContent, specContent_of_hasContent hcontent, hd', ← headerFields_records, ← hrs,
    ← List.append_assoc, ← hcur]
  rfl

/-- A content that ends before an instruction is recognised (42_dispatch.md R182). -/
theorem decodeAndRun_missing {k : Nat} (hcur : s.cur = Cursor.idle) (hcontent : s.hasContent content)
    (hd : decodePacket (s.mode.getLsbD 0) content = ⟨h, .reject (.missing k)⟩) :
    decodeAndRun s = .next { s with outq := s.outq ++ (specHeader s h ++ [specMissing s k]) } :=
  decodeAndRun_reject hcur hcontent hd (congrArg (· :: []) (missing_record s k))

/-- A content that is UNKNOWN from byte 0 on (42_dispatch.md R184). -/
theorem decodeAndRun_unknown {other : Bool} (hcur : s.cur = Cursor.idle) (hcontent : s.hasContent content)
    (hd : decodePacket (s.mode.getLsbD 0) content = ⟨.bare, .reject (.unknown 0 other)⟩) :
    decodeAndRun s = .next { s with outq := s.outq ++ specUnknown s 0 other.toNat content } :=
  decodeAndRun_reject hcur hcontent hd (unknown_records s 0 other content)

end

/-- The shape of 42_dispatch.md R200. -/
theorem decodeAccessory_reservedShape (a : Byte) {b : Byte} (h7 : b.getLsbD 7 = false) (h3 : b.getLsbD 3 = false)
    (h0 : b.getLsbD 0 = false) (ops : List Byte) :
    decodeAccessory a (b :: ops) = ⟨.bare, .reject (.unknown 0 false)⟩ := by
  have hclear {k : Nat} (hk : b.getLsbD k = false) : b.extractLsb' k 1 ≠ 1#1 := by
    intro hone
    have hbit := congrArg (BitVec.getLsbD · 0) hone
    simp [hk] at hbit
  exact decodeAccessory_reserved (hclear h7) (hclear h3) (hclear h0) ops

/-- A direct packet whose operation bits are 00 (44_cv_access.md R302). -/
theorem decodePacket_reservedDirect {a : Byte} (h112 : 112 ≤ a.toNat) (h115 : a.toNat ≤ 115) (v d : Byte) :
    decodePacket true [a, v, d] = ⟨.bare, .reject (.unknown 0 false)⟩ := by
  have ha : a = 0b0111#4 ++ 0b00#2 ++ BitVec.ofNat 2 a.toNat := by
    apply BitVec.eq_of_toNat_eq
    rw [toNat_append_eq_add, BitVec.toNat_ofNat]
    change a.toNat = 28 * 4 + a.toNat % 4
    omega
  rw [ha]
  exact decodePacket_direct 0 _ v d

/-- A service-mode packet of another length than the direct and the register form (44_cv_access.md R305). -/
theorem decodePacket_service_otherLength {a : Byte} (h112 : 112 ≤ a.toNat) (h127 : a.toNat ≤ 127) {ops : List Byte}
    (h1 : ops.length ≠ 1) (h2 : ops.length ≠ 2) :
    decodePacket true (a :: ops) = ⟨.bare, .reject (.unknown 0 true)⟩ := by
  rw [decodePacket_service h112 h127]
  unfold decodeService
  split
  next htwo => exact absurd htwo h2
  next hone => exact absurd hone h1
  next => rfl

/-- Settles O30: each clause is the decoder's rejection of its shape. -/
theorem packetsWithoutInstruction : Obligations.PacketsWithoutInstruction := by
  intro s hcur
  refine ⟨fun h hh hc => ?_, fun h hh hc => ?_, fun a h128 h231 hc => ?_, fun a ops h232 h254 hc => ?_, fun hc => ?_,
    fun a b ops h128 h191 h7 h3 h0 hc => ?_, fun a b d h112 h115 hsvc hc => ?_,
    fun a ops h112 h127 hsvc h1 h2 hc => ?_⟩
  · have hd := decodePacket_mfHeader hh []
    rw [List.append_nil] at hd
    exact decodeAndRun_missing hcur hc hd
  · exact decodeAndRun_missing hcur hc (decodePacket_mfHeader hh [0xC1])
  · exact decodeAndRun_missing hcur hc (decodePacket_cutOff _ h128 h231)
  · exact decodeAndRun_reject hcur hc (decodePacket_reservedAddress _ h232 h254 ops) rfl
  · exact decodeAndRun_missing hcur hc (h := .idleSystem) rfl
  · exact decodeAndRun_unknown hcur hc
      ((decodePacket_accessory _ h128 h191 _).trans (decodeAccessory_reservedShape a h7 h3 h0 ops))
  · refine decodeAndRun_unknown (other := false) hcur hc ?_
    rw [hsvc, decodePacket_reservedDirect h112 h115]
  · refine decodeAndRun_unknown (other := true) hcur hc ?_
    rw [hsvc, decodePacket_service_otherLength h112 h127 h1 h2]

end Sys2Proof.Machine
end

section
/-! Fields as the records the rules write: the one-operand, flag and time-command shapes that the multi-function
instructions share (43_multifunction.md R221 to R252, 30_encoding.md R98), and the bit fields of an operand byte as
numbers. -/

namespace Sys2Proof.Machine

/-! ### Bit fields as record arguments -/

theorem arg_append {m n : Nat} (x : BitVec m) (y : BitVec n) :
    arg (x ++ y) = BitVec.ofNat 32 (x.toNat * 2 ^ n + y.toNat) := by
  rw [arg_eq_ofNat, toNat_append_eq_add]

/-- A bit below a number is its least significant one. -/
theorem toNat_append_lowBit {n : Nat} (x : BitVec n) (b : BitVec 1) : (x ++ b).toNat = 2 * x.toNat + b.toNat := by
  rw [toNat_append_eq_add, Nat.pow_one, Nat.mul_comm]

theorem toNat_lowBits {n : Nat} (x : BitVec n) (k : Nat) : (x.extractLsb' 0 k).toNat = x.toNat % 2 ^ k :=
  BitVec.extractLsb'_toNat 0 k x

/-- The bits from `k` up to the highest. -/
theorem toNat_highBits {n : Nat} (x : BitVec n) {k len : Nat} (h : n ≤ k + len) :
    (x.extractLsb' k len).toNat = x.toNat / 2 ^ k := by
  have hx : x.toNat < 2 ^ k * 2 ^ len := by
    rw [← Nat.pow_add]
    exact Nat.lt_of_lt_of_le x.isLt (Nat.pow_le_pow_right (by decide) h)
  rw [BitVec.extractLsb'_toNat, Nat.shiftRight_eq_div_pow, Nat.mod_eq_of_lt (Nat.div_lt_of_lt_mul hx)]

theorem arg_lowBits {n : Nat} (x : BitVec n) (k : Nat) :
    arg (x.extractLsb' 0 k) = BitVec.ofNat 32 (x.toNat % 2 ^ k) := by
  rw [arg_eq_ofNat, toNat_lowBits]

theorem arg_highBits {n : Nat} (x : BitVec n) {k len : Nat} (h : n ≤ k + len) :
    arg (x.extractLsb' k len) = BitVec.ofNat 32 (x.toNat / 2 ^ k) := by
  rw [arg_eq_ofNat, toNat_highBits x h]

/-- A step number is the speed code less the codes that are no steps. -/
theorem arg_sub {n : Nat} (x : BitVec n) {k : Nat} (hk : k < 2 ^ 32) (hle : k ≤ x.toNat) :
    arg x - BitVec.ofNat 32 k = BitVec.ofNat 32 (x.toNat - k) := by
  rw [arg_eq_ofNat, BitVec.ofNat_sub_ofNat_of_le _ _ hk hle]

/-! ### Fields and their records -/

/-- `rs` is what the rules write for the fields `fs` over the packet in the buffer of `s`. -/
def Reports (s : State) (fs : List Field) (rs : List Record) : Prop := fs.map (fieldRecord s.dp.pkt) = rs

section
variable {s : State} {fs fs' : List Field} {rs rs' : List Record}

theorem Reports.nil : Reports s [] [] := rfl

theorem Reports.cons {f : Field} {r : Record} (hf : fieldRecord s.dp.pkt f = r) (h : Reports s fs rs) :
    Reports s (f :: fs) (r :: rs) := congrArg₂ List.cons hf h

theorem Reports.append (h : Reports s fs rs) (h' : Reports s fs' rs') : Reports s (fs ++ fs') (rs ++ rs') :=
  List.map_append.trans (congrArg₂ _ h h')

theorem Reports.instr {i id : Nat} (h : Reports s fs rs) :
    Reports s (instrField i (BitVec.ofNat 32 id) :: fs) (specField s i i 0x02 id 0 0 :: rs) :=
  .cons (instrField_record s i id) h

theorem Reports.unclaimedBytes {k : Nat} {ops : List Byte} : Reports s (unclaimed k ops) (specUnclaimed s k ops) :=
  unclaimed_records s k ops

theorem Reports.byteMissing {k : Nat} : Reports s [missingField k] [specMissing s k] :=
  .cons (missing_record s k) .nil

/-- A field is the record of its arguments as numbers. -/
theorem field_record {i j code n1 n2 n3 : Nat} {a1 a2 a3 : Word} (h1 : a1 = BitVec.ofNat 32 n1)
    (h2 : a2 = BitVec.ofNat 32 n2) (h3 : a3 = BitVec.ofNat 32 n3) :
    fieldRecord s.dp.pkt ⟨BitVec.ofNat 32 code, a1, a2, a3, i, j⟩ = specField s i j code n1 n2 n3 := by
  rw [h1, h2, h3]
  exact fieldRecord_eq ..

/-- An instruction that emits fields answers the state with their records behind the pending ones. -/
theorem exec_of_reports {ins : Instr} (h : Reports s fs rs) (hexec : exec ins s = .next (s.emitFields fs)) :
    exec ins s = .next { s with outq := s.outq ++ rs } :=
  hexec.trans (congrArg Host.Outcome.next (emitFields_eq h))

/-- The bytes the encoder writes for a multi-function instruction are read as that instruction. -/
theorem readsAs_of_encode {bytes : List Byte} {ins : Instr} (hbytes : encode ins = bytes)
    (hplace : ins.place = .multiFunction) (hok : ins.operandsOk = true) : readsAs bytes ins :=
  hbytes ▸ readsAs_encode (.inl hplace) hok

/-! ### Shapes that several instructions share -/

theorem flagField_record (i : Nat) (f : BitVec 1) :
    fieldRecord s.dp.pkt (flagField i f) = specField s i i 0x13 f.toNat 0 0 := field1_record s i 0x13 f

theorem funcsField_record (i first count : Nat) {states : Word} {n : Nat} (h : states = BitVec.ofNat 32 n) :
    fieldRecord s.dp.pkt (funcsField i (BitVec.ofNat 32 first) (BitVec.ofNat 32 count) states) =
      specField s i i 0x11 first count n := field_record rfl rfl h

theorem flagFields_reports (i id : Nat) (f : BitVec 1) (ops : List Byte) :
    Reports s (flagFields i (BitVec.ofNat 32 id) f ops)
      ([specField s i i 0x02 id 0 0, specField s i i 0x13 f.toNat 0 0] ++ specUnclaimed s (i + 1) ops) :=
  .instr (.cons (flagField_record i f) .unclaimedBytes)

theorem consistFields_reports (i id dir : Nat) (d : Byte) (rest : List Byte) :
    Reports s (consistFields i (BitVec.ofNat 32 id) (BitVec.ofNat 32 dir) (d :: rest))
      ([specField s i i 0x02 id 0 0, specField s (i + 1) (i + 1) 0x15 (d.toNat % 128) dir 0]
        ++ specUnclaimed s (i + 2) rest) :=
  .instr (.cons (field_record (arg_lowBits d 7) rfl rfl) .unclaimedBytes)

theorem functionByteFields_reports (i id first : Nat) (d : Byte) (rest : List Byte) :
    Reports s (functionByteFields i (BitVec.ofNat 32 id) (BitVec.ofNat 32 first) (d :: rest))
      ([specField s i i 0x02 id 0 0, specField s (i + 1) (i + 1) 0x11 first 8 d.toNat]
        ++ specUnclaimed s (i + 2) rest) :=
  .instr (.cons (funcsField_record (i + 1) first 8 (arg_eq_ofNat d)) .unclaimedBytes)

end

end Sys2Proof.Machine
end

section
/-! What the multi-function instructions of classes 000 and 001 report (43_multifunction.md R221 to R232). -/

namespace Sys2Proof.Machine

/-- Settles O1: INSTR, then the bytes left over. -/
theorem resetAndHardResetEmitInstr : Obligations.ResetAndHardResetEmitInstr := by
  intro mk op id hmem ops s _ i
  simp only [List.mem_cons, Prod.mk.injEq, List.not_mem_nil, or_false] at hmem
  obtain ⟨rfl, rfl, rfl⟩ | ⟨rfl, rfl, rfl⟩ := hmem <;>
    exact ⟨readsAs_of_encode rfl rfl rfl, exec_of_reports (.instr .unclaimedBytes) rfl⟩

/-- Settles O2: the three instructions share `flagFields`. -/
theorem flagInstructionsReportF : Obligations.FlagInstructionsReportF := by
  intro mk op id hmem f ops s _ i
  have hfields := flagFields_reports (s := s) i id f ops
  simp only [List.mem_cons, Prod.mk.injEq, List.not_mem_nil, or_false] at hmem
  obtain ⟨rfl, rfl, rfl⟩ | ⟨rfl, rfl, rfl⟩ | ⟨rfl, rfl, rfl⟩ := hmem <;>
    exact ⟨readsAs_of_encode rfl rfl rfl, exec_of_reports hfields rfl⟩

/-- Settles O3: with the operand RAW is added, without it BYTE_MISSING. -/
theorem setDecoderFlagsReportsRaw : Obligations.SetDecoderFlagsReportsRaw := by
  refine ⟨fun f ops => readsAs_of_encode rfl rfl rfl, fun f d rest s _ => ?_, fun f s _ => ?_⟩
  · exact exec_of_reports (.instr (.cons (flagField_record _ f) (.cons (field1_record s _ 0x14 d) .unclaimedBytes))) rfl
  · exact exec_of_reports (.instr (.cons (flagField_record _ f) .byteMissing)) rfl

/-- Settles O4: both directions share `consistFields`. -/
theorem consistReportsAddressAndDirection : Obligations.ConsistReportsAddressAndDirection := by
  intro mk op id dir hmem
  have hfields (d : Byte) (rest : List Byte) (s : State) := consistFields_reports (s := s) s.cur.pos id dir d rest
  simp only [List.mem_cons, Prod.mk.injEq, List.not_mem_nil, or_false] at hmem
  obtain ⟨rfl, rfl, rfl, rfl⟩ | ⟨rfl, rfl, rfl, rfl⟩ := hmem <;>
    exact ⟨fun ops => readsAs_of_encode rfl rfl rfl, fun d rest s _ => exec_of_reports (hfields d rest s) rfl,
      fun s _ => exec_of_reports (.instr .byteMissing) rfl⟩

/-! ### Speeds -/

/-- Kind and step as numbers: STOP, ESTOP or STEP (43_multifunction.md R230). -/
theorem speed128Kind_eq (v : BitVec 7) :
    speed128Kind v = (BitVec.ofNat 32 (if v.toNat = 0 then 1 else if v.toNat = 1 then 3 else 0),
      BitVec.ofNat 32 (v.toNat - 1)) := by
  have hstop : v = 0 ↔ v.toNat = 0 := BitVec.toNat_eq
  have hestop : v = 1 ↔ v.toNat = 1 := BitVec.toNat_eq
  simp only [speed128Kind, hstop, hestop]
  split_ifs with h0 h1
  · rw [h0]; rfl
  · rw [h1]; rfl
  · exact congrArg (speedStep, ·) (arg_sub v (by decide) (Nat.pos_of_ne_zero h0))

/-- Settles O5: the seven low bits of the operand are the speed of `speed128Kind_eq`. -/
theorem speed128ReportsStep : Obligations.Speed128ReportsStep := by
  refine ⟨fun ops => readsAs_of_encode rfl rfl rfl, fun d rest s _ => ?_,
    fun s _ => exec_of_reports (.instr .byteMissing) rfl⟩
  have hkind := speed128Kind_eq (d.extractLsb' 0 7)
  rw [toNat_lowBits] at hkind
  exact exec_of_reports (.instr (.cons (field_record (arg_highBits d (by decide)) (congrArg Prod.fst hkind)
    (congrArg Prod.snd hkind)) .unclaimedBytes)) rfl

/-- Settles O6: each operand is split into its bit fields as numbers. -/
theorem restrictedSpeedAndAnalogFunction : Obligations.RestrictedSpeedAndAnalogFunction := by
  refine ⟨fun ops => ⟨readsAs_of_encode rfl rfl rfl, readsAs_of_encode rfl rfl rfl⟩, fun d rest s _ => ?_,
    fun s _ => exec_of_reports (.instr .byteMissing) rfl, fun v d rest s _ => ?_,
    fun v s _ => exec_of_reports (.instr .byteMissing) rfl, fun s _ => exec_of_reports (.instr .byteMissing) rfl⟩
  · exact exec_of_reports (.instr (.cons (field_record (arg_highBits d (by decide)) (arg_lowBits d 5) rfl)
      .unclaimedBytes)) rfl
  · exact exec_of_reports (.instr (.cons (field_record (arg_eq_ofNat v) (arg_eq_ofNat d) rfl) .unclaimedBytes)) rfl

end Sys2Proof.Machine
end

section
/-! What the speed and function-group instructions of classes 010 to 101 report, by `MODE.SPEED14`
(43_multifunction.md R234 to R239). -/

namespace Sys2Proof.Machine

/-! ### Speeds -/

/-- Kind and step as numbers: one of the four stop codes, or STEP (43_multifunction.md R234). -/
theorem speed28Kind_eq (v : BitVec 5) :
    speed28Kind v = (BitVec.ofNat 32 (if v.toNat = 0 then 1 else if v.toNat = 1 then 2 else if v.toNat = 2 then 3
      else if v.toNat = 3 then 4 else 0), BitVec.ofNat 32 (v.toNat - 3)) := by
  have hstop : v = 0 ↔ v.toNat = 0 := BitVec.toNat_eq
  have hstopI : v = 1 ↔ v.toNat = 1 := BitVec.toNat_eq
  have hestop : v = 2 ↔ v.toNat = 2 := BitVec.toNat_eq
  have hestopI : v = 3 ↔ v.toNat = 3 := BitVec.toNat_eq
  simp only [speed28Kind, hstop, hstopI, hestop, hestopI]
  split_ifs with h0 h1 h2 h3
  · rw [h0]; rfl
  · rw [h1]; rfl
  · rw [h2]; rfl
  · rw [h3]; rfl
  · exact congrArg (speedStep, ·) (arg_sub v (k := 3) (by decide) (by omega))

/-- Kind and step as numbers: STOP, ESTOP or STEP (43_multifunction.md R235). -/
theorem speed14Kind_eq (v : BitVec 4) :
    speed14Kind v = (BitVec.ofNat 32 (if v.toNat = 0 then 1 else if v.toNat = 1 then 3 else 0),
      BitVec.ofNat 32 (v.toNat - 1)) := by
  have hstop : v = 0 ↔ v.toNat = 0 := BitVec.toNat_eq
  have hestop : v = 1 ↔ v.toNat = 1 := BitVec.toNat_eq
  simp only [speed14Kind, hstop, hestop]
  split_ifs with h0 h1
  · rw [h0]; rfl
  · rw [h1]; rfl
  · exact congrArg (speedStep, ·) (arg_sub v (by decide) (Nat.pos_of_ne_zero h0))

section
variable {s : State} (i id dir : Nat) (c : BitVec 1) (speed : BitVec 4) (ops : List Byte)

theorem speedField_record {kindStep : Word × Word} {kind step : Nat}
    (h : kindStep = (BitVec.ofNat 32 kind, BitVec.ofNat 32 step)) :
    fieldRecord s.dp.pkt (speedField i (BitVec.ofNat 32 dir) kindStep) = specField s i i 0x10 dir kind step :=
  field_record rfl (congrArg Prod.fst h) (congrArg Prod.snd h)

theorem speedFields_28_reports :
    let v := 2 * speed.toNat + c.toNat
    Reports s (speedFields i (BitVec.ofNat 32 id) (BitVec.ofNat 32 dir) false c speed ops)
      ([specField s i i 0x02 id 0 0,
        specField s i i 0x10 dir
          (if v = 0 then 1 else if v = 1 then 2 else if v = 2 then 3 else if v = 3 then 4 else 0) (v - 3)]
        ++ specUnclaimed s (i + 1) ops) := by
  have hkind := speed28Kind_eq (speed ++ c)
  rw [toNat_append_lowBit] at hkind
  exact .instr (.cons (speedField_record i dir hkind) .unclaimedBytes)

theorem speedFields_14_reports :
    let v := speed.toNat
    Reports s (speedFields i (BitVec.ofNat 32 id) (BitVec.ofNat 32 dir) true c speed ops)
      ([specField s i i 0x02 id 0 0,
        specField s i i 0x10 dir (if v = 0 then 1 else if v = 1 then 3 else 0) (v - 1), specField s i i 0x11 0 1 c.toNat]
        ++ specUnclaimed s (i + 1) ops) :=
  .instr (.cons (speedField_record i dir (speed14Kind_eq speed))
    (.cons (funcsField_record i 0 1 (arg_eq_ofNat c)) .unclaimedBytes))

end

/-- Settles O7: both directions share `speedFields`, here in the 28-step convention. -/
theorem speed28ReportsStep : Obligations.Speed28ReportsStep := by
  intro mk op id dir hmem c speed ops s hmode _ i v
  have hfields := speedFields_28_reports (s := s) i id dir c speed ops
  rw [← (hmode : s.speed14 = false)] at hfields
  simp only [List.mem_cons, Prod.mk.injEq, List.not_mem_nil, or_false] at hmem
  obtain ⟨rfl, rfl, rfl, rfl⟩ | ⟨rfl, rfl, rfl, rfl⟩ := hmem <;>
    exact ⟨readsAs_of_encode rfl rfl rfl, exec_of_reports hfields rfl⟩

/-- Settles O8: both directions share `speedFields`, here in the 14-step convention. -/
theorem speed14ReportsStepAndF0 : Obligations.Speed14ReportsStepAndF0 := by
  intro mk op id dir hmem c speed ops s hmode _ i v
  have hfields := speedFields_14_reports (s := s) i id dir c speed ops
  rw [← (hmode : s.speed14 = true)] at hfields
  simp only [List.mem_cons, Prod.mk.injEq, List.not_mem_nil, or_false] at hmem
  obtain ⟨rfl, rfl, rfl, rfl⟩ | ⟨rfl, rfl, rfl, rfl⟩ := hmem <;>
    exact ⟨readsAs_of_encode rfl rfl rfl, exec_of_reports hfields rfl⟩

/-! ### Function groups -/

section
variable {s : State} (f0 : BitVec 1) (f : BitVec 4) (ops : List Byte)

theorem exec_fg1_of_not_speed14 (h : s.speed14 = false) :
    exec (.fg1 f0 f ops) s = .next (s.emitFields (instrField s.cur.pos 0x0E :: funcsField s.cur.pos 0 5 (arg (f ++ f0)) ::
      unclaimed (s.cur.pos + 1) ops)) := by
  change execFg1 f0 f ops s = _
  rw [execFg1, h]
  rfl

theorem exec_fg1_of_speed14 (h : s.speed14 = true) :
    exec (.fg1 f0 f ops) s = .next (s.emitFields (instrField s.cur.pos 0x0E :: funcsField s.cur.pos 1 4 (arg f) ::
      ⟨0x12, 4, arg f0, 0, s.cur.pos, s.cur.pos⟩ :: unclaimed (s.cur.pos + 1) ops)) := by
  change execFg1 f0 f ops s = _
  rw [execFg1, h]
  rfl

end

/-- F0 is the low bit of the five states of FG1 in the 28-step convention. -/
theorem arg_fg1States (f0 : BitVec 1) (f : BitVec 4) : arg (f ++ f0) = BitVec.ofNat 32 (f0.toNat + 2 * f.toNat) := by
  rw [arg_eq_ofNat, toNat_append_lowBit, Nat.add_comm]

/-- Settles O9: FG1 by `MODE.SPEED14`, and group two in either convention. -/
theorem functionGroupsReportStates : Obligations.FunctionGroupsReportStates := by
  intro f ops s _ i
  refine ⟨fun f0 => readsAs_of_encode rfl rfl rfl, readsAs_of_encode rfl rfl rfl, readsAs_of_encode rfl rfl rfl,
    fun f0 hmode => exec_of_reports ?_ (exec_fg1_of_not_speed14 f0 f ops hmode),
    fun f0 hmode => exec_of_reports ?_ (exec_fg1_of_speed14 f0 f ops hmode), exec_of_reports ?_ rfl,
    exec_of_reports ?_ rfl⟩
  · exact .instr (.cons (funcsField_record i 0 5 (arg_fg1States f0 f)) .unclaimedBytes)
  · exact .instr (.cons (funcsField_record i 1 4 (arg_eq_ofNat f))
      (.cons (field_record rfl (arg_eq_ofNat f0) rfl) .unclaimedBytes))
  · exact .instr (.cons (funcsField_record i 5 4 (arg_eq_ofNat f)) .unclaimedBytes)
  · exact .instr (.cons (funcsField_record i 9 4 (arg_eq_ofNat f)) .unclaimedBytes)

end Sys2Proof.Machine
end

section
/-! What the instructions of class 110 report: function bytes, binary states and the time commands
(43_multifunction.md R240 to R252). -/

namespace Sys2Proof.Machine

/-- Settles O10: the seven instructions share `functionByteFields`. -/
theorem functionBytesReportEightStates : Obligations.FunctionBytesReportEightStates := by
  intro mk op id first hmem
  have hfields (d : Byte) (rest : List Byte) (s : State) :=
    functionByteFields_reports (s := s) s.cur.pos id first d rest
  simp only [List.mem_cons, Prod.mk.injEq, List.not_mem_nil, or_false] at hmem
  obtain ⟨rfl, rfl, rfl, rfl⟩ | ⟨rfl, rfl, rfl, rfl⟩ | ⟨rfl, rfl, rfl, rfl⟩ | ⟨rfl, rfl, rfl, rfl⟩ |
    ⟨rfl, rfl, rfl, rfl⟩ | ⟨rfl, rfl, rfl, rfl⟩ | ⟨rfl, rfl, rfl, rfl⟩ := hmem <;>
    exact ⟨fun ops => readsAs_of_encode rfl rfl rfl, fun d rest s _ => exec_of_reports (hfields d rest s) rfl,
      fun s _ => exec_of_reports (.instr .byteMissing) rfl⟩

/-- The address of BINSTATE_LONG, its low part sent first (43_multifunction.md R240). -/
theorem arg_binstateAddress (lo hi : Byte) :
    arg (hi ++ lo.extractLsb' 0 7) = BitVec.ofNat 32 (hi.toNat * 128 + lo.toNat % 128) := by
  rw [arg_append, toNat_lowBits]
  rfl

/-- Settles O11: the address is put together from its low and its high part. -/
theorem binaryStateReportsAddressAndState : Obligations.BinaryStateReportsAddressAndState := by
  refine ⟨fun ops => ⟨readsAs_of_encode rfl rfl rfl, readsAs_of_encode rfl rfl rfl⟩,
    fun lo hi rest s _ => exec_of_reports ?_ rfl, fun lo s _ => exec_of_reports (.instr .byteMissing) rfl,
    fun s _ => exec_of_reports (.instr .byteMissing) rfl, fun d rest s _ => exec_of_reports ?_ rfl,
    fun s _ => exec_of_reports (.instr .byteMissing) rfl⟩
  · exact .instr (.cons (field_record (arg_binstateAddress lo hi) (arg_highBits lo (by decide)) rfl) .unclaimedBytes)
  · exact .instr (.cons (field_record (arg_lowBits d 7) (arg_highBits d (by decide)) rfl) .unclaimedBytes)

/-! ### Time commands -/

/-- The NOT_BROADCAST record of a time command (43_multifunction.md R241). -/
def specNotBroadcast (s : State) : List Record :=
  if s.cur.kind = .broadcast then [] else [specField s s.cur.pos s.cur.pos 0x1F s.cur.addr.toNat 0 0]

section
variable {s : State} {go : Byte → Byte → List Field} (id : Nat) (b2 b3 : Byte)

theorem notBroadcast_reports : Reports s (notBroadcast s.cur.pos s.cur) (specNotBroadcast s) := by
  unfold notBroadcast specNotBroadcast
  split_ifs
  · exact .nil
  · exact .cons (field1_record s s.cur.pos 0x1F s.cur.addr) .nil

/-- A time command with all its operands reports what its form makes of the second and the third. -/
theorem timeFields_reports {rs : List Record} (rest : List Byte) (h : Reports s (go b2 b3) rs) :
    Reports s (timeFields s.cur.pos (BitVec.ofNat 32 id) s.cur (b2 :: b3 :: rest) go)
      (specField s s.cur.pos s.cur.pos 0x02 id 0 0 :: specNotBroadcast s ++ rs
        ++ specUnclaimed s (s.cur.pos + 4) rest) := by
  rw [List.append_assoc]
  exact .append (.instr notBroadcast_reports) (.append h .unclaimedBytes)

theorem timeFields_reports_third_missing :
    Reports s (timeFields s.cur.pos (BitVec.ofNat 32 id) s.cur [b2] go)
      (specField s s.cur.pos s.cur.pos 0x02 id 0 0 :: specNotBroadcast s ++ [specMissing s (s.cur.pos + 3)]) :=
  .append (.instr notBroadcast_reports) .byteMissing

theorem timeFields_reports_second_missing :
    Reports s (timeFields s.cur.pos (BitVec.ofNat 32 id) s.cur [] go)
      (specField s s.cur.pos s.cur.pos 0x02 id 0 0 :: specNotBroadcast s ++ [specMissing s (s.cur.pos + 2)]) :=
  .append (.instr notBroadcast_reports) .byteMissing

end

/-- The year of MODEL_DATE, its high nibble first (43_multifunction.md R243). -/
theorem arg_year (b2 b3 : Byte) :
    arg (b2.extractLsb' 0 4 ++ b3) = BitVec.ofNat 32 (b2.toNat % 16 * 256 + b3.toNat) := by
  rw [arg_append, toNat_lowBits]
  rfl

/-- Settles O12: the three forms share `timeFields`, and differ in what they make of the operands. -/
theorem timeCommandsReportFields : Obligations.TimeCommandsReportFields := by
  intro m s i warn
  refine ⟨fun ops => ⟨readsAs_of_encode rfl rfl rfl, readsAs_of_encode rfl rfl rfl, readsAs_of_encode rfl rfl rfl⟩,
    fun b2 b3 rest _ => ⟨?_, ?_, ?_⟩, fun mk id hmem => ?_⟩
  · exact exec_of_reports (timeFields_reports 0x12 b2 b3 rest
      (.cons (field_record (arg_lowBits b2 5) (arg_eq_ofNat m) rfl)
        (.cons (field_record (arg_highBits b2 (by decide)) rfl rfl)
          (.cons (field_record (arg_highBits b3 (by decide)) (arg_lowBits b3 6) rfl) .nil)))) rfl
  · exact exec_of_reports (timeFields_reports 0x13 b2 b3 rest
      (.cons (field_record (arg_lowBits m 5) (arg_highBits b2 (by decide)) rfl)
        (.cons (field_record (arg_year b2 b3) rfl rfl) .nil))) rfl
  · exact exec_of_reports (timeFields_reports 0x14 b2 b3 rest
      (.cons (field_record (arg_append b2 b3) rfl rfl) .nil)) rfl
  · have hthird (b2 : Byte) (go) := timeFields_reports_third_missing (s := s) (go := go) id b2
    have hsecond (go) := timeFields_reports_second_missing (s := s) (go := go) id
    simp only [List.mem_cons, Prod.mk.injEq, List.not_mem_nil, or_false] at hmem
    obtain ⟨rfl, rfl⟩ | ⟨rfl, rfl⟩ | ⟨rfl, rfl⟩ := hmem <;>
      exact ⟨fun b2 _ => exec_of_reports (hthird b2 _) rfl, fun _ => exec_of_reports (hsecond _) rfl⟩

end Sys2Proof.Machine
end

section
/-! Reserved opcodes: the classes with opcodes no instruction has, and the reserved time form (43_multifunction.md R227,
R233, R241, R253, 44_cv_access.md R285, R290, R297). -/

namespace Sys2Proof.Machine

/-! ### Classes of opcodes -/

/-- The class of an opcode is its three high bits (43_multifunction.md R220). -/
theorem toNat_opcodeClass (op : Byte) : (op.extractLsb' 5 3).toNat = op.toNat / 32 := toNat_highBits op (by decide)

section
variable (pos : Nat) (other : Bool) {op : Byte} (ops : List Byte)

theorem decodeMf_control (h : op.toNat / 32 = 0) :
    decodeMf pos other (op :: ops) = decodeControl pos other op ops := by
  simp only [decodeMf, toNat_opcodeClass, h]

theorem decodeMf_advanced (h : op.toNat / 32 = 1) :
    decodeMf pos other (op :: ops) = decodeAdvanced pos other op ops := by
  simp only [decodeMf, toNat_opcodeClass, h]

theorem decodeMf_feature (h : op.toNat / 32 = 6) :
    decodeMf pos other (op :: ops) = decodeFeature pos other op ops := by
  simp only [decodeMf, toNat_opcodeClass, h]

theorem decodeMf_shortForm (h : op.toNat / 16 = 15) :
    decodeMf pos other (op :: ops) = decodeShortForm pos other op ops := by
  have hclass : op.toNat / 32 = 7 := by omega
  have hbit : op.extractLsb' 4 1 ≠ 0#1 := by
    rw [← BitVec.toNat_ne_iff_ne, BitVec.extractLsb'_toNat, Nat.shiftRight_eq_div_pow]
    change op.toNat / 16 % 2 ≠ 0
    omega
  simp only [decodeMf, toNat_opcodeClass, hclass, hbit, if_false]

/-! ### What each class rejects -/

/-- The reserved opcodes of class 000 (43_multifunction.md R227). -/
theorem decodeControl_reserved
    (h : op.toNat ∈ [0x04, 0x05, 0x08, 0x09, 0x0C, 0x0D, 0x10, 0x11] ∨ 0x14 ≤ op.toNat) :
    decodeControl pos other op ops = .reject (.unknown pos other) := by
  have hne (k : Byte) (hk : op.toNat ≠ k.toNat) : op ≠ k := BitVec.toNat_ne_iff_ne.1 hk
  have hflag (k : BitVec 7) (hk : op.toNat / 2 ≠ k.toNat) : op.extractLsb' 1 7 ≠ k := by
    rwa [← BitVec.toNat_ne_iff_ne, toNat_highBits op (by decide)]
  simp only [List.mem_cons, List.not_mem_nil, or_false] at h
  rw [decodeControl, if_neg (hne _ _), if_neg (hne _ _), if_neg (hne _ _), if_neg (hne _ _), if_neg (hflag _ _),
    if_neg (hflag _ _), if_neg (hflag _ _), if_neg (hflag _ _)]
  all_goals
    simp only [BitVec.reduceToNat]
    omega

/-- The reserved opcodes of class 001 (43_multifunction.md R233). -/
theorem decodeAdvanced_reserved (h : op.toNat ≤ 0x3C) :
    decodeAdvanced pos other op ops = .reject (.unknown pos other) := by
  rw [decodeAdvanced, if_neg (by bv_omega), if_neg (by bv_omega), if_neg (by bv_omega)]

/-- The reserved opcodes of class 110 (43_multifunction.md R253). -/
theorem decodeFeature_reserved (hlow : 0xC2 ≤ op.toNat) (hhigh : op.toNat ≤ 0xD7) :
    decodeFeature pos other op ops = .reject (.unknown pos other) := by
  unfold decodeFeature
  repeat rw [if_neg (by bv_omega)]

/-- The reserved time form (43_multifunction.md R241). -/
theorem decodeTime_reserved (h : (ops.head?.any fun t => decide (192 ≤ t.toNat)) = true) :
    decodeTime pos other ops = .reject (.unknown pos other) := by
  cases ops with
  | nil => cases h
  | cons t rest =>
    have ht : 192 ≤ t.toNat := of_decide_eq_true h
    have hform : (t.extractLsb' 6 2).toNat = 3 := by
      rw [toNat_highBits t (by decide)]
      omega
    have h3 : t.extractLsb' 6 2 = 3#2 := BitVec.eq_of_toNat_eq hform
    simp [decodeTime, h3]

/-- The opcodes 0xE0 to 0xE3 (44_cv_access.md R285, R290). -/
theorem decodeCvAccess_reserved (hlow : 224 ≤ op.toNat) (hhigh : op.toNat ≤ 227) :
    decodeCvAccess pos other op ops = .reject (.unknown pos other) := by
  have hcc : op.extractLsb' 2 2 = 0#2 := by
    apply BitVec.eq_of_toNat_eq
    rw [BitVec.extractLsb'_toNat, Nat.shiftRight_eq_div_pow]
    change op.toNat / 4 % 4 = 0
    omega
  simp [decodeCvAccess, hcc]

/-- The reserved opcodes 0xF0 to 0xFF (44_cv_access.md R297). -/
theorem decodeShortForm_reserved (h : op.toNat ∉ [0xF2, 0xF3, 0xF4, 0xF5, 0xF9]) :
    decodeShortForm pos other op ops = .reject (.unknown pos other) := by
  simp only [List.mem_cons, List.not_mem_nil, or_false] at h
  unfold decodeShortForm
  repeat rw [if_neg (by bv_omega)]

theorem cvShaped_of_reserved (hlow : 224 ≤ op.toNat) (hhigh : op.toNat ≤ 227) : cvShaped op = true :=
  (cvShaped_iff op).2 (by omega)

/-- The reserved opcodes by class. -/
theorem reservedOpcode_cases {n : Nat} (h : reservedOpcode n = true) :
    (n / 32 = 0 ∧ (n ∈ [0x04, 0x05, 0x08, 0x09, 0x0C, 0x0D, 0x10, 0x11] ∨ 0x14 ≤ n)) ∨
    (n / 32 = 1 ∧ n ≤ 0x3C) ∨ (0xC2 ≤ n ∧ n ≤ 0xD7) ∨ (0xE0 ≤ n ∧ n ≤ 0xE3) ∨
    (0xF0 ≤ n ∧ n ∉ [0xF2, 0xF3, 0xF4, 0xF5, 0xF9]) := by
  simp only [reservedOpcode, Bool.or_eq_true, decide_eq_true_eq, List.mem_cons, List.not_mem_nil, or_false] at h ⊢
  omega

/-- A reserved opcode or time form holds no instruction, after every multi-function header. -/
theorem decodeMf_reserved (h : reservedForm op ops = true) :
    decodeMf pos other (op :: ops) = .reject (.unknown pos other) := by
  have hop := op.isLt
  rw [reservedForm, Bool.or_eq_true, Bool.and_eq_true, beq_iff_eq] at h
  obtain hreserved | ⟨rfl, htime⟩ := h
  · obtain ⟨hclass, hc⟩ | ⟨hclass, hc⟩ | ⟨hlow, hhigh⟩ | ⟨hlow, hhigh⟩ | ⟨hlow, hc⟩ := reservedOpcode_cases hreserved
    · rw [decodeMf_control pos other ops hclass, decodeControl_reserved pos other ops hc]
    · rw [decodeMf_advanced pos other ops hclass, decodeAdvanced_reserved pos other ops hc]
    · rw [decodeMf_feature pos other ops (by omega), decodeFeature_reserved pos other ops hlow hhigh]
    · rw [decodeMf_cvShaped pos other (cvShaped_of_reserved hlow hhigh),
        decodeCvAccess_reserved pos other ops hlow hhigh]
    · rw [decodeMf_shortForm pos other ops (by omega), decodeShortForm_reserved pos other ops hc]
  · exact decodeTime_reserved pos other ops htime

end

/-! ### The packet of a reserved opcode -/

theorem isOther_toNat (h : Header) : (isOther h).toNat = otherFlag h := by
  cases h with
  | mf7 a => by_cases h112 : 112 ≤ a.toNat <;> simp [isOther, otherFlag, h112]
  | _ => rfl

theorem length_encodeHeader (h : Header) : (encodeHeader h).length = h.size := by
  cases h <;> rfl

/-- The bytes of a content that is UNKNOWN after its header (42_dispatch.md R184). -/
theorem rejectFields_unknown_records (s : State) (h : Header) (bytes : List Byte) :
    (rejectFields (.unknown h.size (isOther h)) (encodeHeader h ++ bytes)).map (fieldRecord s.dp.pkt) =
      specUnknown s h.size (otherFlag h) bytes := by
  rw [rejectFields, List.drop_left' (length_encodeHeader h), unknown_records, isOther_toNat]

/-- Settles O28: the decoder rejects the opcode, whatever follows it. -/
theorem reservedOpcodesAreUnknown : Obligations.ReservedOpcodesAreUnknown := by
  intro h op ops s hcur hcontent hcases
  suffices hd : decodePacket (s.mode.getLsbD 0) (encodeHeader h ++ op :: ops) =
      ⟨h, .reject (.unknown h.size (isOther h))⟩ from
    decodeAndRun_reject hcur hcontent hd (rejectFields_unknown_records s h (op :: ops))
  obtain ⟨hmf, hreserved⟩ | ⟨⟨lo, hi, c, ddd, rfl⟩, hlow, hhigh⟩ | ⟨⟨lo, hi, port, rfl⟩, hlow, hhigh, hops⟩ := hcases
  · rw [decodePacket_mfHeader hmf, decodeMf_reserved _ _ _ hreserved]
  · rw [decodePacket_accPom _ lo hi c ddd (cvShaped_of_reserved hlow hhigh), decodeCvAccess_reserved _ _ _ hlow hhigh]
    rfl
  · rw [decodePacket_accExtPom _ lo hi port (cvShaped_of_reserved hlow hhigh) hops,
      decodeCvAccess_reserved _ _ _ hlow hhigh]
    rfl

end Sys2Proof.Machine
end

section
/-! Parts that the CV-access instructions share: CV numbers, data bytes, and the POM and XPOM layouts
(44_cv_access.md R281 to R289, R299 to R301). -/

namespace Sys2Proof.Machine

/-! ### Numbers in the operands -/

/-- `len` bits from bit `k` on. -/
theorem arg_bitField {n : Nat} (x : BitVec n) (k len : Nat) :
    arg (x.extractLsb' k len) = BitVec.ofNat 32 (x.toNat / 2 ^ k % 2 ^ len) := by
  rw [arg_eq_ofNat, BitVec.extractLsb'_toNat, Nat.shiftRight_eq_div_pow]

/-- CV and register numbers are sent less 1. -/
theorem arg_add_one {n : Nat} (x : BitVec n) : arg x + 1 = BitVec.ofNat 32 (x.toNat + 1) := by
  rw [arg_eq_ofNat, BitVec.ofNat_add]
  rfl

theorem cvNumber10_eq (hi : BitVec 2) (v : Byte) :
    cvNumber10 hi v = BitVec.ofNat 32 (hi.toNat * 256 + v.toNat + 1) := by
  rw [cvNumber10, arg_add_one, toNat_append_eq_add]
  rfl

theorem cvNumber24_eq (v2 v1 v0 : Byte) :
    cvNumber24 v2 v1 v0 = BitVec.ofNat 32 (v2.toNat * 65536 + v1.toNat * 256 + v0.toNat + 1) := by
  have hbytes : (v2 ++ v1 ++ v0).toNat = v2.toNat * 65536 + v1.toNat * 256 + v0.toNat := by
    rw [toNat_append_eq_add, toNat_append_eq_add]
    omega
  rw [cvNumber24, arg_add_one, hbytes]

/-! ### Places of the grammar -/

/-- The bytes the encoder writes for a CV-access instruction are read as that instruction. -/
theorem readsAs_of_encode_cvAccess {bytes : List Byte} {ins : Instr} (hbytes : encode ins = bytes)
    (hplace : ins.place = .cvAccess) (hok : ins.operandsOk = true) : readsAs bytes ins :=
  hbytes ▸ readsAs_encode (.inr hplace) hok

/-- The bytes the encoder writes for a service-mode instruction are, in service mode, the packet of that instruction. -/
theorem decodePacket_of_encode_service {bytes : List Byte} {ins : Instr} (hbytes : encode ins = bytes)
    (hplace : ins.place = .service) (hok : ins.operandsOk = true) : decodePacket true bytes = ⟨.bare, .instr ins⟩ :=
  hbytes ▸ decodePacket_service_encode hplace hok

/-! ### Data bytes -/

section
variable (s : State)

/-- What the data byte `d` of a CV access is reported by: BITOP for bit manipulation, CVDATA for the other operations
(44_cv_access.md R281 to R284). -/
def specCvData (operation k : Nat) (d : Byte) : Record :=
  if operation = 2 then specField s k k 0x22 (d.toNat / 16 % 2) (d.toNat % 8) (d.toNat / 8 % 2)
  else specField s k k 0x21 d.toNat 0 0

/-- `CVDATA` for each of `bytes`, the first of them content byte `k` (44_cv_access.md R289). -/
def specCvDataBytes (k : Nat) (bytes : List Byte) : List Record :=
  bytes.mapIdx fun m d => specField s (k + m) (k + m) 0x21 d.toNat 0 0

theorem specCvDataBytes_cons (k : Nat) (d : Byte) (rest : List Byte) :
    specCvDataBytes s k (d :: rest) = specField s k k 0x21 d.toNat 0 0 :: specCvDataBytes s (k + 1) rest := by
  simp only [specCvDataBytes, List.mapIdx_cons, Nat.add_zero, Nat.add_assoc, Nat.add_comm 1]

theorem cvDataField_record (k : Nat) (d : Byte) :
    fieldRecord s.dp.pkt (cvDataField k d) = specField s k k 0x21 d.toNat 0 0 := field1_record s k 0x21 d

/-- Bits 7:5 of the data byte take no part (44_cv_access.md R284). -/
theorem bitOpField_record (k : Nat) (d : Byte) :
    fieldRecord s.dp.pkt (bitOpField k d) =
      specField s k k 0x22 (d.toNat / 16 % 2) (d.toNat % 8) (d.toNat / 8 % 2) :=
  field_record (arg_bitField d 4 1) (arg_lowBits d 3) (arg_bitField d 3 1)

/-- `CVADDR(cv, operation)` over one byte. -/
theorem cvAddrField_record (k operation : Nat) {cv : Word} {n : Nat} (h : cv = BitVec.ofNat 32 n) :
    fieldRecord s.dp.pkt (cvAddrField k cv (BitVec.ofNat 32 operation)) = specField s k k 0x20 n operation 0 :=
  field_record h rfl rfl

/-- `moreCvData` reports up to `count` bytes as data and the others as unclaimed (44_cv_access.md R289). -/
theorem moreCvData_reports (count k : Nat) (ops : List Byte) :
    Reports s (moreCvData count k ops)
      (specCvDataBytes s k (ops.take count) ++ specUnclaimed s (k + count) (ops.drop count)) := by
  induction ops generalizing count k with
  | nil =>
    rw [List.take_nil, List.drop_nil, moreCvData]
    exact .nil
  | cons d rest ih =>
    cases count with
    | zero => exact .unclaimedBytes
    | succ count =>
      have hrest := ih count (k + 1)
      rw [Nat.add_assoc, Nat.add_comm 1] at hrest
      rw [List.take_succ_cons, List.drop_succ_cons, specCvDataBytes_cons]
      exact .cons (cvDataField_record s k d) hrest

end

/-! ### The POM and XPOM layouts -/

section
variable {s : State} {data : Nat → Byte → Field} (i id operation : Nat) (hi ss : BitVec 2) (v d v2 v1 v0 : Byte)

theorem pomFields_reports (hdata : fieldRecord s.dp.pkt (data (i + 2) d) = specCvData s operation (i + 2) d) :
    Reports s (pomFields i (BitVec.ofNat 32 id) (BitVec.ofNat 32 operation) data hi [v, d])
      [specField s i i 0x02 id 0 0,
        specField s (i + 1) (i + 1) 0x20 (hi.toNat * 256 + v.toNat + 1) operation 0,
        specCvData s operation (i + 2) d] :=
  .instr (.cons (cvAddrField_record s (i + 1) operation (cvNumber10_eq hi v)) (.cons hdata .nil))

theorem pomFields_reports_data_missing :
    Reports s (pomFields i (BitVec.ofNat 32 id) (BitVec.ofNat 32 operation) data hi [v])
      [specField s i i 0x02 id 0 0,
        specField s (i + 1) (i + 1) 0x20 (hi.toNat * 256 + v.toNat + 1) operation 0, specMissing s (i + 2)] :=
  .instr (.cons (cvAddrField_record s (i + 1) operation (cvNumber10_eq hi v)) .byteMissing)

/-- The direct layout of service mode is the POM layout from byte 0 on (44_cv_access.md R299). -/
theorem directFields_eq_pomFields (id operation : Word) (ops : List Byte) :
    directFields id operation data hi ops = pomFields 0 id operation data hi ops := rfl

theorem directFields_reports (hdata : fieldRecord s.dp.pkt (data 2 d) = specCvData s operation 2 d) :
    Reports s (directFields (BitVec.ofNat 32 id) (BitVec.ofNat 32 operation) data hi [v, d])
      [specField s 0 0 0x02 id 0 0, specField s 1 1 0x20 (hi.toNat * 256 + v.toNat + 1) operation 0,
        specCvData s operation 2 d] := by
  rw [directFields_eq_pomFields]
  exact pomFields_reports 0 id operation hi v d hdata

/-- The XPOM common part reports the sequence number and the CV number (44_cv_access.md R286). -/
theorem xpomFields_reports {go : List Byte → List Field} {rest : List Byte} {rs : List Record}
    (h : Reports s (go rest) rs) :
    Reports s (xpomFields i (BitVec.ofNat 32 id) (BitVec.ofNat 32 operation) ss (v2 :: v1 :: v0 :: rest) go)
      (specField s i i 0x02 id 0 0 ::
        specField s (i + 1) (i + 3) 0x23 operation ss.toNat (v2.toNat * 65536 + v1.toNat * 256 + v0.toNat + 1) :: rs) :=
  .instr (.cons (field_record rfl (arg_eq_ofNat ss) (cvNumber24_eq v2 v1 v0)) h)

end

end Sys2Proof.Machine
end

section
/-! What the CV-access instructions of class 111 report: POM, XPOM and the short forms (44_cv_access.md R281 to R296). -/

namespace Sys2Proof.Machine

/-- Settles O13: the three instructions share `pomFields`, and differ in the field of the data byte. -/
theorem pomReportsCvAndData : Obligations.PomReportsCvAndData := by
  intro mk op id operation hmem hi s i
  obtain ⟨hreads, data, hexec, hdata⟩ :
      (∀ ops : List Byte, ops.length ≤ 2 → readsAs ((op ++ hi) :: ops) (mk hi ops)) ∧
      ∃ data : Nat → Byte → Field,
        (∀ ops, exec (mk hi ops) s =
          .next (s.emitFields (pomFields i (BitVec.ofNat 32 id) (BitVec.ofNat 32 operation) data hi ops))) ∧
        ∀ k d, fieldRecord s.dp.pkt (data k d) = specCvData s operation k d := by
    simp only [List.mem_cons, Prod.mk.injEq, List.not_mem_nil, or_false] at hmem
    obtain ⟨rfl, rfl, rfl, rfl⟩ | ⟨rfl, rfl, rfl, rfl⟩ | ⟨rfl, rfl, rfl, rfl⟩ := hmem <;>
      refine ⟨fun ops h => readsAs_of_encode_cvAccess rfl rfl (decide_eq_true h), ?_⟩
    · exact ⟨cvDataField, fun _ => rfl, cvDataField_record s⟩
    · exact ⟨bitOpField, fun _ => rfl, bitOpField_record s⟩
    · exact ⟨cvDataField, fun _ => rfl, cvDataField_record s⟩
  exact ⟨hreads, fun v d _ => exec_of_reports (pomFields_reports i id operation hi v d (hdata _ d)) (hexec _),
    fun v _ => exec_of_reports (pomFields_reports_data_missing i id operation hi v) (hexec _),
    fun _ => exec_of_reports (.instr .byteMissing) (hexec _)⟩

/-- Settles O14: the three instructions share `xpomFields`; the data bytes of XPOM_WRITE are `moreCvData_reports`. -/
theorem xpomReportsCvAndData : Obligations.XpomReportsCvAndData := by
  intro ss v2 v1 v0 s i cv
  have hfields {go : List Byte → List Field} {rest : List Byte} {rs : List Record} (id operation : Nat)
      (h : Reports s (go rest) rs) := xpomFields_reports i id operation ss v2 v1 v0 h
  have hlength (rest : List Byte) : decide (3 ≤ (v2 :: v1 :: v0 :: rest).length) = true :=
    decide_eq_true (Nat.le_add_left 3 rest.length)
  refine ⟨fun rest => ⟨readsAs_of_encode_cvAccess rfl rfl (hlength rest),
      readsAs_of_encode_cvAccess rfl rfl (hlength rest), readsAs_of_encode_cvAccess rfl rfl (hlength rest)⟩,
    fun rest _ => exec_of_reports (hfields 0x23 1 .unclaimedBytes) rfl,
    fun d rest _ => exec_of_reports (hfields 0x24 2 (.cons (bitOpField_record s _ d) .unclaimedBytes)) rfl,
    fun _ => exec_of_reports (hfields 0x24 2 .byteMissing) rfl,
    fun data hdata _ => ?_,
    fun _ => exec_of_reports (hfields 0x25 3 .byteMissing) rfl⟩
  obtain ⟨d, rest, rfl⟩ := List.exists_cons_of_ne_nil hdata
  exact exec_of_reports (hfields 0x25 3 (moreCvData_reports s 4 (i + 4) (d :: rest))) rfl

/-! ### Short forms -/

section
variable {s : State} (i id : Nat) (rest : List Byte) (d d1 d2 : Byte)

theorem oneCvFields_reports (cv : Nat) :
    Reports s (oneCvFields i (BitVec.ofNat 32 id) (BitVec.ofNat 32 cv) (d :: rest))
      ([specField s i i 0x02 id 0 0, specField s i i 0x20 cv 3 0, specField s (i + 1) (i + 1) 0x21 d.toNat 0 0]
        ++ specUnclaimed s (i + 2) rest) :=
  .instr (.cons (cvAddrField_record s i 3 rfl) (.cons (cvDataField_record s (i + 1) d) .unclaimedBytes))

theorem oneCvFields_reports_data_missing (cv : Nat) :
    Reports s (oneCvFields i (BitVec.ofNat 32 id) (BitVec.ofNat 32 cv) [])
      [specField s i i 0x02 id 0 0, specField s i i 0x20 cv 3 0, specMissing s (i + 1)] :=
  .instr (.cons (cvAddrField_record s i 3 rfl) .byteMissing)

/-- With its first data byte a form that writes two CVs reports the first CV in full and names the second. -/
theorem twoCvFields_reports_first (cv1 cv2 : Nat) {rs : List Record}
    (h : Reports s (take (i + 2) rest fun d2 rest => cvDataField (i + 2) d2 :: unclaimed (i + 3) rest) rs) :
    Reports s (twoCvFields i (BitVec.ofNat 32 id) (BitVec.ofNat 32 cv1) (BitVec.ofNat 32 cv2) (d1 :: rest))
      (specField s i i 0x02 id 0 0 :: specField s i i 0x20 cv1 3 0 :: specField s (i + 1) (i + 1) 0x21 d1.toNat 0 0 ::
        specField s i i 0x20 cv2 3 0 :: rs) :=
  .instr (.cons (cvAddrField_record s i 3 rfl) (.cons (cvDataField_record s (i + 1) d1)
    (.cons (cvAddrField_record s i 3 rfl) h)))

theorem twoCvFields_reports_data_missing (cv1 cv2 : Nat) :
    Reports s (twoCvFields i (BitVec.ofNat 32 id) (BitVec.ofNat 32 cv1) (BitVec.ofNat 32 cv2) [])
      [specField s i i 0x02 id 0 0, specField s i i 0x20 cv1 3 0, specMissing s (i + 1)] :=
  .instr (.cons (cvAddrField_record s i 3 rfl) .byteMissing)

end

/-- Settles O15: CV_ACCEL and CV_DECEL share `oneCvFields`; DECODER_LOCK's address is the seven low bits of its operand. -/
theorem oneByteShortFormsReportTheirCv : Obligations.OneByteShortFormsReportTheirCv := by
  refine ⟨fun ops => ⟨readsAs_of_encode rfl rfl rfl, readsAs_of_encode rfl rfl rfl, readsAs_of_encode rfl rfl rfl⟩,
    fun mk id cv hmem => ?_, fun d rest s _ => ?_, fun s _ => exec_of_reports (.instr .byteMissing) rfl⟩
  · have hfields (d : Byte) (rest : List Byte) (s : State) := oneCvFields_reports (s := s) s.cur.pos id rest d cv
    have hmissing (s : State) := oneCvFields_reports_data_missing (s := s) s.cur.pos id cv
    simp only [List.mem_cons, Prod.mk.injEq, List.not_mem_nil, or_false] at hmem
    obtain ⟨rfl, rfl, rfl⟩ | ⟨rfl, rfl, rfl⟩ := hmem <;>
      exact ⟨fun d rest s _ => exec_of_reports (hfields d rest s) rfl, fun s _ => exec_of_reports (hmissing s) rfl⟩
  · exact exec_of_reports (.instr (.cons (field_record (arg_lowBits d 7) rfl rfl) .unclaimedBytes)) rfl

/-- Settles O16: both instructions share `twoCvFields`. -/
theorem twoByteShortFormsReportTheirCvs : Obligations.TwoByteShortFormsReportTheirCvs := by
  intro mk op id cv1 cv2 hmem s i
  obtain ⟨hreads, hexec⟩ : (∀ ops : List Byte, readsAs (op :: ops) (mk ops)) ∧
      ∀ ops : List Byte, exec (mk ops) s =
        .next (s.emitFields (twoCvFields i (BitVec.ofNat 32 id) (BitVec.ofNat 32 cv1) (BitVec.ofNat 32 cv2) ops)) := by
    simp only [List.mem_cons, Prod.mk.injEq, List.not_mem_nil, or_false] at hmem
    obtain ⟨rfl, rfl, rfl, rfl, rfl⟩ | ⟨rfl, rfl, rfl, rfl, rfl⟩ := hmem <;>
      exact ⟨fun ops => readsAs_of_encode rfl rfl rfl, fun ops => rfl⟩
  refine ⟨hreads, fun d1 d2 rest _ => exec_of_reports ?_ (hexec _), fun d1 _ => exec_of_reports ?_ (hexec _),
    fun _ => exec_of_reports (twoCvFields_reports_data_missing i id cv1 cv2) (hexec _)⟩
  · exact twoCvFields_reports_first i id (d2 :: rest) d1 cv1 cv2
      (.cons (cvDataField_record s (i + 2) d2) .unclaimedBytes)
  · exact twoCvFields_reports_first i id [] d1 cv1 cv2 .byteMissing

end Sys2Proof.Machine
end

section
/-! What the service-mode instructions report (44_cv_access.md R299 to R304). -/

namespace Sys2Proof.Machine

/-- Settles O17: the three instructions share `directFields`, and differ in the field of the data byte. -/
theorem serviceDirectReportsCvAndData : Obligations.ServiceDirectReportsCvAndData := by
  intro mk op id operation hmem a v d s _
  have hfields {data : Nat → Byte → Field} (hdata : fieldRecord s.dp.pkt (data 2 d) = specCvData s operation 2 d) :=
    directFields_reports id operation a v d hdata
  simp only [List.mem_cons, Prod.mk.injEq, List.not_mem_nil, or_false] at hmem
  obtain ⟨rfl, rfl, rfl, rfl⟩ | ⟨rfl, rfl, rfl, rfl⟩ | ⟨rfl, rfl, rfl, rfl⟩ := hmem <;>
    refine ⟨decodePacket_of_encode_service rfl rfl rfl, ?_⟩
  · exact exec_of_reports (hfields (cvDataField_record s 2 d)) rfl
  · exact exec_of_reports (hfields (bitOpField_record s 2 d)) rfl
  · exact exec_of_reports (hfields (cvDataField_record s 2 d)) rfl

theorem registerFields_reports {s : State} (id operation : Nat) (r : BitVec 3) (d : Byte) :
    Reports s (registerFields (BitVec.ofNat 32 id) (BitVec.ofNat 32 operation) r [d])
      [specField s 0 0 0x02 id 0 0, specField s 1 1 0x25 operation (r.toNat + 1) d.toNat] :=
  .instr (.cons (field_record rfl (arg_add_one r) (arg_eq_ofNat d)) .nil)

/-- Settles O18: both instructions share `registerFields`. -/
theorem serviceRegisterReportsRegister : Obligations.ServiceRegisterReportsRegister := by
  intro mk op id operation hmem r d s _
  have hfields := registerFields_reports (s := s) id operation r d
  simp only [List.mem_cons, Prod.mk.injEq, List.not_mem_nil, or_false] at hmem
  obtain ⟨rfl, rfl, rfl, rfl⟩ | ⟨rfl, rfl, rfl, rfl⟩ := hmem <;>
    exact ⟨decodePacket_of_encode_service rfl rfl rfl, exec_of_reports hfields rfl⟩

end Sys2Proof.Machine
end

section
/-! Runs of a host that stays inside the register space: no interaction stops the machine and none adds to what the host
has still to present, so a run of any length goes on (60_exceptions.md R322, 20_memory.md R60). -/

namespace Sys2Proof.Machine

/-! ### What the host has still to present -/

/-- What remains after the interaction taken keeps its order (60_exceptions.md R339). -/
theorem nextAct_sublist {ready : Bool} {l rest : List HostAct} {a : HostAct} (h : nextAct ready l = some (a, rest)) :
    rest.Sublist l := by
  induction l generalizing rest with
  | nil => cases h
  | cons b l ih =>
    cases b with
    | edge ts level =>
      cases ready with
      | true =>
        cases h
        exact List.sublist_cons_self ..
      | false =>
        simp only [nextAct, Bool.false_eq_true, if_false, Option.map_eq_some_iff] at h
        obtain ⟨p, hp, he⟩ := h
        cases he
        exact (ih hp).cons_cons _
    | accept | memRead | memWrite | hardReset =>
      cases h
      exact List.sublist_cons_self ..

/-- No interaction changes the host's list, resets included (log entry 3). -/
theorem Turn.script_eq {a : HostAct} {s t : State} (h : Turn a s t) : t.host.script = s.host.script := by
  cases h with
  | processedEdge _ _ _ _ _ hproc =>
    obtain ⟨rs, d, c, rfl⟩ := hproc.effect
    rfl
  | unchanged | lateEdge | accepted | read | softReset | refusedStart | started | configured | hardReset => rfl

theorem State.hostInSpace_iff (s : State) : s.hostInSpace = true ↔ ∀ a ∈ s.host.script, a.inSpace = true :=
  List.all_eq_true

theorem Turn.hostInSpace_eq {a : HostAct} {s t : State} (h : Turn a s t) : t.hostInSpace = s.hostInSpace :=
  congrArg (List.all · HostAct.inSpace) h.script_eq

/-! ### No fault inside the register space -/

/-- The only fault is a register access outside the register space (log entry 8). -/
theorem perform_next_of_inSpace {a : HostAct} (ha : a.inSpace = true) (s : State) : ∃ t, perform a s = .next t := by
  cases a with
  | edge ts level => exact acceptEdge_next ts level s
  | accept => exact ⟨_, rfl⟩
  | memRead offset => exact ⟨_, if_pos (of_decide_eq_true ha)⟩
  | memWrite offset v => exact ⟨_, if_pos (of_decide_eq_true ha)⟩
  | hardReset => exact ⟨_, rfl⟩

/-- A step of a host inside the register space answers a next state, whose host is inside it too. -/
theorem step_next_of_hostInSpace {s : State} (hs : s.hostInSpace = true) :
    ∃ t, step s = .next t ∧ t.hostInSpace = true := by
  have hin := s.hostInSpace_iff.1 hs
  cases hnext : nextAct s.outq.isEmpty s.host.script with
  | none => exact ⟨s, step_wait hnext, hs⟩
  | some p =>
    obtain ⟨a, rest⟩ := p
    obtain ⟨t, ht⟩ := perform_next_of_inSpace (hin a (nextAct_mem hnext)) (s.withScript rest)
    have hrest : (s.withScript rest).hostInSpace = true :=
      (State.hostInSpace_iff _).2 fun b hb => hin b ((nextAct_sublist hnext).subset hb)
    exact ⟨t, (step_perform hnext).trans ht, (perform_turn ht).hostInSpace_eq.trans hrest⟩

/-! ### Runs -/

/-- The run goes on from the state its first step answers. -/
theorem run_succ_of_step {M : Host.Core} {s t : M.State} (h : M.step s = .next t) (k : Nat) :
    M.run (k + 1) s = M.run k t := by
  rw [Host.Core.run, h]

/-- Settles O53, by induction on the number of steps. -/
theorem runsInsideTheSpaceGoOn : Obligations.RunsInsideTheSpaceGoOn := by
  intro k
  induction k with
  | zero => exact fun s hs => ⟨s, rfl, hs⟩
  | succ k ih =>
    intro s hs
    obtain ⟨t, hstep, ht⟩ := step_next_of_hostInSpace hs
    obtain ⟨u, hrun, hu⟩ := ih t ht
    exact ⟨u, (run_succ_of_step (M := Sys2Proof.core) hstep k).trans hrun, hu⟩

end Sys2Proof.Machine
end

section
/-! Which sample rates can resolve ONE and ZERO, and what hardware reset leaves (70_reset_and_hazards.md R364, R350). -/

namespace Sys2Proof.Machine

/-! ### Reachable classes -/

theorem classifyHalves_eq_one_iff (fs tol d1 d2 : Nat) :
    (classifyHalves fs tol d1 d2).1 = .one ↔ isOne fs tol d1 d2 = true := by
  obtain ⟨h1, hc⟩ | ⟨h1, -, hc⟩ | ⟨h1, -, -, hc⟩ | ⟨h1, -, -, -, hc⟩ | ⟨h1, -, -, -, hc⟩ :=
    classifyHalves_cases fs tol d1 d2 <;>
    simp [hc, h1]

theorem classifyHalves_eq_zero_iff (fs tol d1 d2 : Nat) :
    (classifyHalves fs tol d1 d2).1 = .zero ↔ isOne fs tol d1 d2 = false ∧ isZero fs d1 d2 = true := by
  obtain ⟨h1, hc⟩ | ⟨h1, h0, hc⟩ | ⟨h1, h0, -, hc⟩ | ⟨h1, h0, -, -, hc⟩ | ⟨h1, h0, -, -, hc⟩ :=
    classifyHalves_cases fs tol d1 d2
  · simp [hc, h1]
  all_goals simp [hc, h1, h0]

/-- Two equal halves never differ too much, so one half within the bounds of R119 is enough. -/
theorem reachable_one_iff (fs tol : Nat) : reachable .one fs tol ↔ ∃ d, oneHalf fs tol d = true := by
  simp only [reachable, classifyHalves_eq_one_iff, isOne, Bool.and_eq_true]
  constructor
  · rintro ⟨d1, -, ⟨h1, -⟩, -⟩
    exact ⟨d1, h1⟩
  · rintro ⟨d, h⟩
    exact ⟨d, d, ⟨h, h⟩, by simp [oneDifference, usLe]⟩

/-- A ZERO has a half in [90, 119] us (40_classifier.md R120). -/
theorem exists_zeroHalf_of_reachable {fs tol : Nat} (h : reachable .zero fs tol) :
    ∃ d, 90 * fs ≤ d * 1000000 ∧ d * 1000000 ≤ 119 * fs := by
  simp only [reachable, classifyHalves_eq_zero_iff, isZero, usGe, usLe, Bool.or_eq_true, Bool.and_eq_true,
    decide_eq_true_iff] at h
  obtain ⟨d1, d2, -, ⟨⟨-, hlo⟩, hhi⟩ | ⟨⟨-, hlo⟩, hhi⟩⟩ := h
  · exact ⟨d2, hlo, hhi⟩
  · exact ⟨d1, hlo, hhi⟩

theorem oneHalf_tol_zero_iff (fs d : Nat) :
    oneHalf fs 0 d = true ↔ 52 * fs ≤ d * 1000000 ∧ d * 1000000 ≤ 64 * fs := by
  simp only [oneHalf, Bool.and_eq_true, decide_eq_true_iff]
  omega

/-- At tolerance 0 two equal halves in [90, 119] us are a ZERO: they are above the 64 us of a ONE. -/
theorem reachable_zero_of_half {fs d : Nat} (hfs : 0 < fs) (hlo : 90 * fs ≤ d * 1000000)
    (hhi : d * 1000000 ≤ 119 * fs) : reachable .zero fs 0 := by
  have hone : oneHalf fs 0 d = false := by
    rw [← Bool.not_eq_true, oneHalf_tol_zero_iff]
    omega
  have hlong : d * 1000000 ≤ 10000 * fs := by omega
  refine ⟨d, d, (classifyHalves_eq_zero_iff fs 0 d d).2 ⟨by simp [isOne, hone], ?_⟩⟩
  simp [isZero, usGe, usLe, hlo, hhi, hlong]

/-! ### Multiples of the sample period -/

/-- An interval as wide as a sample period holds a whole number of samples. -/
theorem exists_samples_between {lo hi : Nat} (h : lo + 999999 ≤ hi) : ∃ d, lo ≤ d * 1000000 ∧ d * 1000000 ≤ hi :=
  ⟨hi / 1000000, by omega, by omega⟩

/-- Halves of two, three and four samples lie in [52, 64] us at these rates; one sample is too short at every legal
rate, and five are too long below 78125 Hz. -/
theorem rate_of_oneHalf_tol_zero {fs d : Nat} (hmin : 25000 ≤ fs) (hmax : fs ≤ 78124) (h : oneHalf fs 0 d = true) :
    (31250 ≤ fs ∧ fs ≤ 38461) ∨ (46875 ≤ fs ∧ fs ≤ 57692) ∨ (62500 ≤ fs ∧ fs ≤ 76923) := by
  obtain ⟨hlo, hhi⟩ := (oneHalf_tol_zero_iff fs d).1 h
  have hd : d ≤ 4 := by omega
  interval_cases d <;> omega

/-- Three samples are shorter than 90 us and four are longer than 119 us. -/
theorem no_zeroHalf_of_rate {fs d : Nat} (hmin : 33334 ≤ fs) (hmax : fs ≤ 33613) :
    ¬ (90 * fs ≤ d * 1000000 ∧ d * 1000000 ≤ 119 * fs) := by
  obtain h3 | h4 : d ≤ 3 ∨ 4 ≤ d := by omega
  all_goals omega

/-! ### The rates of R364 -/

/-- At 25000 Hz two samples are 80 us and three are 120 us. -/
theorem not_reachable_zero_25000 (tol : Nat) : ¬ reachable .zero 25000 tol := by
  intro h
  obtain ⟨d, hlo, hhi⟩ := exists_zeroHalf_of_reachable h
  omega

/-- At 25000 Hz halves of one sample (40 us) are a ONE from TOL_PM 231 on, halves of two only from 250 on. -/
theorem reachable_one_25000_iff {tol : Nat} (htol : tol ≤ 500) : reachable .one 25000 tol ↔ 231 ≤ tol := by
  simp only [reachable_one_iff, oneHalf, Bool.and_eq_true, decide_eq_true_iff]
  constructor
  · rintro ⟨d, hlo, hhi⟩
    obtain h1 | h2 : d ≤ 1 ∨ 2 ≤ d := by omega
    all_goals omega
  · intro h
    exact ⟨1, by omega, by omega⟩

theorem reachable_one_and_zero_of_rate {fs : Nat} (hfs : 83334 ≤ fs) : reachable .one fs 0 ∧ reachable .zero fs 0 := by
  obtain ⟨d1, h1⟩ := exists_samples_between (lo := 52 * fs) (hi := 64 * fs) (by omega)
  obtain ⟨d0, hlo, hhi⟩ := exists_samples_between (lo := 90 * fs) (hi := 119 * fs) (by omega)
  exact ⟨(reachable_one_iff fs 0).2 ⟨d1, (oneHalf_tol_zero_iff fs d1).2 h1⟩,
    reachable_zero_of_half (by omega) hlo hhi⟩

/-- Settles O36: a class is reachable only when its interval holds a multiple of the sample period. -/
theorem sampleRateDecidesReachableClasses : Obligations.SampleRateDecidesReachableClasses := by
  refine ⟨not_reachable_zero_25000, fun tol => reachable_one_25000_iff, ?_, fun fs => reachable_one_and_zero_of_rate⟩
  rintro fs hfs ⟨hone, hzero⟩
  obtain ⟨d1, h1⟩ := (reachable_one_iff fs 0).1 hone
  obtain ⟨d0, h0⟩ := exists_zeroHalf_of_reachable hzero
  have hrate := rate_of_oneHalf_tol_zero (by omega) (by omega) h1
  have hgap : 33334 ≤ fs ∧ fs ≤ 33613 := by omega
  exact no_zeroHalf_of_rate hgap.1 hgap.2 h0

/-! ### Hardware reset -/

theorem perform_hardReset (s : State) : perform .hardReset s = .next (hardReset s) := rfl

/-- The configuration registers and the error bits after hardware reset (10_state.md R24 to R32). -/
theorem hardReset_registers (s : State) :
    (hardReset s).cfgErr = false ∧ (hardReset s).tsErr = false ∧ (hardReset s).samplerate = 0 ∧
    (hardReset s).tolPm = 0 ∧ (hardReset s).shortThrNs = 4000 ∧ (hardReset s).mode = 0 ∧
    (hardReset s).accOffset = 0 :=
  ⟨rfl, rfl, rfl, rfl, rfl, rfl, rfl⟩

/-- Settles O44: hardware reset is the reset state with the host's lists kept, and the host's lists are no register and
no datapath element. -/
theorem hardwareResetValues : Obligations.HardwareResetValues := by
  intro s
  obtain ⟨hcfg, hts, hrate, htol, hthr, hmode, hacc⟩ := hardReset_registers s
  refine ⟨hardReset s, perform_hardReset s, hardReset_running s, hcfg, hts, hrate, htol, hthr, hmode, hacc, ?_⟩
  simp [Datapath.reset]

end Sys2Proof.Machine
end

section
/-! Decoding what the encoder writes (30_encoding.md R83 to R87). -/

namespace Sys2Proof.Machine

/-- Settles O24. -/
theorem decodeOfEncode : Obligations.DecodeOfEncode := fun _ _ _ hwf => decodePacket_encodePacket hwf

/-- Settles O26: each content is the encoding of a well-formed packet. -/
theorem writtenPacketsDecode : Obligations.WrittenPacketsDecode :=
  ⟨decodePacket_encodePacket (h := .broadcast) (i := .reset _) rfl,
    decodePacket_encodePacket (h := .mf7 3) (i := .speed128 _) rfl,
    decodePacket_encodePacket (h := .mf7 3) (i := .speedFwd 1 2 _) rfl,
    decodePacket_encodePacket (h := .mf14 0 1) (i := .fg1 1 5 _) rfl,
    decodePacket_encodePacket (h := .broadcast) (i := .modelTime 30 _) rfl,
    decodePacket_encodePacket (h := .mf7 3) (i := .pomBit 1 _) rfl,
    decodePacket_encodePacket (h := .mf7 3) (i := .xpomRead 1 _) rfl,
    decodePacket_encodePacket (h := .bare) (i := .smRegWrite 3 _) rfl,
    decodePacket_encodePacket (h := .bare) (i := .smDirectVerify 0 _) rfl,
    decodePacket_encodePacket (h := .bare) (i := .accBasic 1 7 1 0 0 _) rfl,
    decodePacket_encodePacket (h := .bare) (i := .accExt 1 7 0 _) rfl,
    decodePacket_encodePacket (h := .bare) (i := .sysCmd 0x12 _) rfl⟩

end Sys2Proof.Machine
end

section
/-! What the decoder reads, the encoder writes back: the converse of `decodePacket_encodePacket`, first for the grammar
after a header, then for every shape of a packet (30_encoding.md R83 to R88). -/

namespace Sys2Proof.Machine

/-! ### Bit fields put together again -/

/-- A word is its high bits before its low bits. -/
theorem highBits_append_lowBits {m n : Nat} {x : BitVec (m + n)} {hi : BitVec m} (h : x.extractLsb' n m = hi) :
    hi ++ x.extractLsb' 0 n = x := by
  rw [← h, BitVec.extractLsb'_append_extractLsb'_eq_extractLsb' (by omega)]
  exact BitVec.extractLsb'_eq_self

/-- The fields of an opcode `CCCxxxxx` (43_multifunction.md R220). -/
theorem opcode_fields (op : Byte) : op.extractLsb' 5 3 ++ op.extractLsb' 4 1 ++ op.extractLsb' 0 4 = op := by
  rw [BitVec.extractLsb'_append_extractLsb'_eq_extractLsb' (by decide)]
  exact highBits_append_lowBits (m := 4) (n := 4) rfl

/-- The fields of a byte whose high half is known, `HHHHCCVV` (44_cv_access.md R280, R299). -/
theorem halfByte_fields {b : Byte} {hi : BitVec 4} (h : b.extractLsb' 4 4 = hi) :
    hi ++ b.extractLsb' 2 2 ++ b.extractLsb' 0 2 = b := by
  rw [← h, BitVec.extractLsb'_append_extractLsb'_eq_extractLsb' (by decide)]
  exact highBits_append_lowBits (m := 6) (n := 2) rfl

/-- The same with its low half as `CRRR` (44_cv_access.md R303). -/
theorem halfByte_bitFields {b : Byte} {hi : BitVec 4} (h : b.extractLsb' 4 4 = hi) :
    hi ++ b.extractLsb' 3 1 ++ b.extractLsb' 0 3 = b := by
  rw [← h, BitVec.extractLsb'_append_extractLsb'_eq_extractLsb' (by decide)]
  exact highBits_append_lowBits (m := 5) (n := 3) rfl

/-- The fields of byte 1 of an accessory packet, `GaaaDPPR` (42_dispatch.md R193). -/
theorem accessoryByte_eq (b : Byte) :
    b.extractLsb' 7 1 ++ b.extractLsb' 4 3 ++ b.extractLsb' 3 1 ++ b.extractLsb' 1 2 ++ b.extractLsb' 0 1 = b := by
  rw [BitVec.extractLsb'_append_extractLsb'_eq_extractLsb' (by decide),
    BitVec.extractLsb'_append_extractLsb'_eq_extractLsb' (by decide),
    BitVec.extractLsb'_append_extractLsb'_eq_extractLsb' (by decide)]
  exact highBits_append_lowBits (m := 7) (n := 1) rfl

/-- The same of a basic POM, `GaaaCDDD` (42_dispatch.md R195). -/
theorem pomByte_eq (b : Byte) : b.extractLsb' 7 1 ++ b.extractLsb' 4 3 ++ b.extractLsb' 3 1 ++ b.extractLsb' 0 3 = b := by
  rw [BitVec.extractLsb'_append_extractLsb'_eq_extractLsb' (by decide),
    BitVec.extractLsb'_append_extractLsb'_eq_extractLsb' (by decide)]
  exact highBits_append_lowBits (m := 5) (n := 3) rfl

/-! ### The grammar after a header -/

/-- What the grammar answers on `bytes`: an instruction of one of the places `ps` whose encoding is those bytes and whose
operands its row admits, or a rejection that `rejects` allows. -/
inductive ReadsBack (bytes : List Byte) (ps : List Place) (rejects : Reject → Prop) : Body → Prop where
  | instr {i : Instr} : encode i = bytes → i.place ∈ ps → i.operandsOk = true → ReadsBack bytes ps rejects (.instr i)
  | reject {r : Reject} : rejects r → ReadsBack bytes ps rejects (.reject r)

theorem ReadsBack.mono {bytes : List Byte} {ps qs : List Place} {c d : Reject → Prop} {b : Body} (hp : ps ⊆ qs)
    (hc : ∀ r, c r → d r) (h : ReadsBack bytes ps c b) : ReadsBack bytes qs d b := by
  cases h with
  | instr hbytes hplace hok => exact .instr hbytes (hp hplace) hok
  | reject h => exact .reject (hc _ h)

theorem ReadsBack.ite {bytes : List Byte} {ps : List Place} {rejects : Reject → Prop} {c : Prop} [Decidable c]
    {a b : Body} (ha : c → ReadsBack bytes ps rejects a) (hb : ¬ c → ReadsBack bytes ps rejects b) :
    ReadsBack bytes ps rejects (if c then a else b) := by
  split
  next h => exact ha h
  next h => exact hb h

/-- Where an instruction after a multi-function address belongs. -/
def afterAddress : List Place := [.multiFunction, .cvAccess]

/-- The statement about reserved opcodes, as an arithmetic fact of the opcode. -/
theorem reservedForm_of_opcode {op : Byte} {n : Nat} (hop : op.toNat = n) (h : reservedOpcode n = true)
    (ops : List Byte) : reservedForm op ops = true := by
  rw [reservedForm, hop, h, Bool.true_or]

/-- The rejection of a reserved form: UNKNOWN from its opcode on (42_dispatch.md R184). -/
def RejectsReserved (pos : Nat) (other : Bool) (op : Byte) (ops : List Byte) (r : Reject) : Prop :=
  r = .unknown pos other ∧ reservedForm op ops = true

/-- The rejections after a multi-function header: a reserved form, or 0xC1 with nothing after it (43_multifunction.md
R241). -/
def RejectsMf (pos : Nat) (other : Bool) (op : Byte) (ops : List Byte) (r : Reject) : Prop :=
  RejectsReserved pos other op ops r ∨ (r = .missing (pos + 1) ∧ op = 0xC1#8 ∧ ops = [])

theorem reservedOpcode_iff (n : Nat) :
    reservedOpcode n = true ↔
      ((((((n = 0x04 ∨ n = 0x05 ∨ n = 0x08 ∨ n = 0x09 ∨ n = 0x0C ∨ n = 0x0D ∨ n = 0x10 ∨ n = 0x11) ∨
      0x14 ≤ n ∧ n ≤ 0x3C) ∨ 0xC2 ≤ n ∧ n ≤ 0xD7) ∨ 0xE0 ≤ n ∧ n ≤ 0xE3) ∨ n = 0xF0 ∨ n = 0xF1) ∨
      0xF6 ≤ n ∧ n ≤ 0xF8) ∨ 0xFA ≤ n := by
  simp only [reservedOpcode, Bool.or_eq_true, decide_eq_true_eq, List.mem_cons, List.not_mem_nil, or_false]

section
variable (pos : Nat) (other : Bool) (op : Byte) (ops : List Byte)

theorem decodeControl_readsBack (hclass : op.toNat / 32 = 0) :
    ReadsBack (op :: ops) afterAddress (RejectsReserved pos other op ops) (decodeControl pos other op ops) := by
  have hflag {k : BitVec 7} (hk : op.extractLsb' 1 7 = k) : (k ++ op.extractLsb' 0 1) :: ops = op :: ops :=
    congrArg (· :: ops) (highBits_append_lowBits (m := 7) (n := 1) hk)
  unfold decodeControl
  refine .ite (fun h0 => .instr (by rw [h0]; rfl) (.head _) rfl) fun h0 => ?_
  refine .ite (fun h1 => .instr (by rw [h1]; rfl) (.head _) rfl) fun h1 => ?_
  refine .ite (fun h12 => .instr (by rw [h12]; rfl) (.head _) rfl) fun h12 => ?_
  refine .ite (fun h13 => .instr (by rw [h13]; rfl) (.head _) rfl) fun h13 => ?_
  refine .ite (fun hfactory => .instr (hflag hfactory) (.head _) rfl) fun hfactory => ?_
  refine .ite (fun hflags => .instr (hflag hflags) (.head _) rfl) fun hflags => ?_
  refine .ite (fun hadv => .instr (hflag hadv) (.head _) rfl) fun hadv => ?_
  refine .ite (fun hack => .instr (hflag hack) (.head _) rfl) fun hack => ?_
  simp only [← BitVec.toNat_inj, toNat_highBits op (show 8 ≤ 1 + 7 by decide), BitVec.reduceToNat]
    at h0 h1 h12 h13 hfactory hflags hadv hack
  exact .reject ⟨rfl, reservedForm_of_opcode rfl ((reservedOpcode_iff _).2 (by omega)) ops⟩

theorem decodeAdvanced_readsBack (hclass : op.toNat / 32 = 1) :
    ReadsBack (op :: ops) afterAddress (RejectsReserved pos other op ops) (decodeAdvanced pos other op ops) := by
  unfold decodeAdvanced
  refine .ite (fun h3F => .instr (by rw [h3F]; rfl) (.head _) rfl) fun h3F => ?_
  refine .ite (fun h3E => .instr (by rw [h3E]; rfl) (.head _) rfl) fun h3E => ?_
  refine .ite (fun h3D => .instr (by rw [h3D]; rfl) (.head _) rfl) fun h3D => ?_
  simp only [← BitVec.toNat_inj, BitVec.reduceToNat] at h3F h3E h3D
  exact .reject ⟨rfl, reservedForm_of_opcode rfl ((reservedOpcode_iff _).2 (by omega)) ops⟩

theorem decodeTime_readsBack :
    ReadsBack (0xC1#8 :: ops) afterAddress (RejectsMf pos other 0xC1#8 ops) (decodeTime pos other ops) := by
  cases ops with
  | nil => exact .reject (.inr ⟨rfl, rfl, rfl⟩)
  | cons t rest =>
    have hform {k : BitVec 2} (hk : t.extractLsb' 6 2 = k) :
        0xC1#8 :: (k ++ t.extractLsb' 0 6) :: rest = 0xC1#8 :: t :: rest :=
      congrArg (0xC1#8 :: · :: rest) (highBits_append_lowBits (m := 2) (n := 6) hk)
    unfold decodeTime
    dsimp only
    refine .ite (fun h0 => .instr (hform h0) (.head _) rfl) fun h0 => ?_
    refine .ite (fun h1 => .instr (hform h1) (.head _) rfl) fun h1 => ?_
    refine .ite (fun h2 => .instr (hform h2) (.head _) rfl) fun h2 => ?_
    simp only [← BitVec.toNat_inj, toNat_highBits t (show 8 ≤ 6 + 2 by decide), BitVec.reduceToNat] at h0 h1 h2
    have ht : 192 ≤ t.toNat := by omega
    exact .reject (.inl ⟨rfl, decide_eq_true ht⟩)

theorem decodeFeature_readsBack (hclass : op.toNat / 32 = 6) :
    ReadsBack (op :: ops) afterAddress (RejectsMf pos other op ops) (decodeFeature pos other op ops) := by
  have htime (hC1 : op = 0xC1#8) :
      ReadsBack (op :: ops) afterAddress (RejectsMf pos other op ops) (decodeTime pos other ops) := by
    subst hC1
    exact decodeTime_readsBack pos other ops
  unfold decodeFeature
  refine .ite (fun hC0 => .instr (by rw [hC0]; rfl) (.head _) rfl) fun hC0 => ?_
  refine .ite htime fun hC1 => ?_
  refine .ite (fun hD8 => .instr (by rw [hD8]; rfl) (.head _) rfl) fun hD8 => ?_
  refine .ite (fun hD9 => .instr (by rw [hD9]; rfl) (.head _) rfl) fun hD9 => ?_
  refine .ite (fun hDA => .instr (by rw [hDA]; rfl) (.head _) rfl) fun hDA => ?_
  refine .ite (fun hDB => .instr (by rw [hDB]; rfl) (.head _) rfl) fun hDB => ?_
  refine .ite (fun hDC => .instr (by rw [hDC]; rfl) (.head _) rfl) fun hDC => ?_
  refine .ite (fun hDD => .instr (by rw [hDD]; rfl) (.head _) rfl) fun hDD => ?_
  refine .ite (fun hDE => .instr (by rw [hDE]; rfl) (.head _) rfl) fun hDE => ?_
  refine .ite (fun hDF => .instr (by rw [hDF]; rfl) (.head _) rfl) fun hDF => ?_
  simp only [← BitVec.toNat_inj, BitVec.reduceToNat] at hC0 hC1 hD8 hD9 hDA hDB hDC hDD hDE hDF
  exact .reject (.inl ⟨rfl, reservedForm_of_opcode rfl ((reservedOpcode_iff _).2 (by omega)) ops⟩)

theorem decodeCvAccess_readsBack (hop : cvShaped op = true) :
    ReadsBack (op :: ops) [.cvAccess] (RejectsReserved pos other op ops) (decodeCvAccess pos other op ops) := by
  have hbytes {cc : BitVec 2} {high : BitVec 6} (hcc : op.extractLsb' 2 2 = cc) (hhigh : 0b1110#4 ++ cc = high) :
      (high ++ op.extractLsb' 0 2) :: ops = op :: ops := by
    rw [← hhigh, ← hcc, halfByte_fields (beq_iff_eq.1 hop)]
  have hshort (h3 : ¬ 3 ≤ ops.length) : decide (ops.length ≤ 2) = true := decide_eq_true (by omega)
  unfold decodeCvAccess
  dsimp only
  refine .ite (fun hverify => .ite (fun h3 => .instr (hbytes hverify rfl) (.head _) (decide_eq_true h3))
    fun h3 => .instr (hbytes hverify rfl) (.head _) (hshort h3)) fun hverify => ?_
  refine .ite (fun hbit => .ite (fun h3 => .instr (hbytes hbit rfl) (.head _) (decide_eq_true h3))
    fun h3 => .instr (hbytes hbit rfl) (.head _) (hshort h3)) fun hbit => ?_
  refine .ite (fun hwrite => .ite (fun h3 => .instr (hbytes hwrite rfl) (.head _) (decide_eq_true h3))
    fun h3 => .instr (hbytes hwrite rfl) (.head _) (hshort h3)) fun hwrite => ?_
  have hclass := (cvShaped_iff op).1 hop
  simp only [← BitVec.toNat_inj, BitVec.extractLsb'_toNat, Nat.shiftRight_eq_div_pow, BitVec.reduceToNat]
    at hverify hbit hwrite
  exact .reject ⟨rfl, reservedForm_of_opcode rfl ((reservedOpcode_iff _).2 (by omega)) ops⟩

theorem decodeShortForm_readsBack (hclass : op.toNat / 16 = 15) :
    ReadsBack (op :: ops) afterAddress (RejectsReserved pos other op ops) (decodeShortForm pos other op ops) := by
  unfold decodeShortForm
  refine .ite (fun hF2 => .instr (by rw [hF2]; rfl) (.head _) rfl) fun hF2 => ?_
  refine .ite (fun hF3 => .instr (by rw [hF3]; rfl) (.head _) rfl) fun hF3 => ?_
  refine .ite (fun hF4 => .instr (by rw [hF4]; rfl) (.head _) rfl) fun hF4 => ?_
  refine .ite (fun hF5 => .instr (by rw [hF5]; rfl) (.head _) rfl) fun hF5 => ?_
  refine .ite (fun hF9 => .instr (by rw [hF9]; rfl) (.head _) rfl) fun hF9 => ?_
  simp only [← BitVec.toNat_inj, BitVec.reduceToNat] at hF2 hF3 hF4 hF5 hF9
  exact .reject ⟨rfl, reservedForm_of_opcode rfl ((reservedOpcode_iff _).2 (by omega)) ops⟩

/-- Every opcode is read back by the decoder of its class, whose number is its three high bits (43_multifunction.md
R220). -/
theorem decodeMf_readsBack :
    ReadsBack (op :: ops) afterAddress (RejectsMf pos other op ops) (decodeMf pos other (op :: ops)) := by
  have hfields {cls : BitVec 3} {c : BitVec 1} (hcls : (op.extractLsb' 5 3).toNat = cls.toNat)
      (hc : op.extractLsb' 4 1 = c) : (cls ++ c ++ op.extractLsb' 0 4) :: ops = op :: ops := by
    rw [← BitVec.eq_of_toNat_eq hcls, ← hc, opcode_fields]
  have hhalf {half : BitVec 4} (h : op.toNat / 16 = half.toNat) : (half ++ op.extractLsb' 0 4) :: ops = op :: ops := by
    have hhigh : op.extractLsb' 4 4 = half :=
      BitVec.eq_of_toNat_eq ((toNat_highBits op (show 8 ≤ 4 + 4 by decide)).trans h)
    exact congrArg (· :: ops) (highBits_append_lowBits (m := 4) (n := 4) hhigh)
  have hop := op.isLt
  have hclasses : op.toNat / 32 = 0 ∨ op.toNat / 32 = 1 ∨ op.toNat / 32 = 2 ∨
      op.toNat / 32 = 3 ∨ op.toNat / 32 = 4 ∨
      op.toNat / 32 = 5 ∨ op.toNat / 32 = 6 ∨ op.toNat / 16 = 14 ∨ op.toNat / 16 = 15 := by omega
  rw [← toNat_opcodeClass] at hclasses
  obtain h | h | h | h | h | h | h | h | h := hclasses
  · have h' := (toNat_opcodeClass op).symm.trans h
    rw [decodeMf_control pos other ops h']
    exact (decodeControl_readsBack pos other op ops h').mono (List.Subset.refl _) fun _ => .inl
  · have h' := (toNat_opcodeClass op).symm.trans h
    rw [decodeMf_advanced pos other ops h']
    exact (decodeAdvanced_readsBack pos other op ops h').mono (List.Subset.refl _) fun _ => .inl
  · simp only [decodeMf, h]
    exact .instr (hfields (cls := 2) h rfl) (.head _) rfl
  · simp only [decodeMf, h]
    exact .instr (hfields (cls := 3) h rfl) (.head _) rfl
  · simp only [decodeMf, h]
    exact .instr (hfields (cls := 4) h rfl) (.head _) rfl
  · simp only [decodeMf, h]
    have h' := (toNat_opcodeClass op).symm.trans h
    have hbit : (op.extractLsb' 4 1).toNat = op.toNat / 16 % 2 := by
      rw [BitVec.extractLsb'_toNat, Nat.shiftRight_eq_div_pow]
    split_ifs with h1
    · rw [h1, BitVec.toNat_ofNat] at hbit
      exact .instr (hhalf (half := 11#4) (show op.toNat / 16 = 11 by omega)) (.head _) rfl
    · rw [(BitVec.eq_zero_or_eq_one _).resolve_right h1, BitVec.toNat_ofNat] at hbit
      exact .instr (hhalf (half := 10#4) (show op.toNat / 16 = 10 by omega)) (.head _) rfl
  · have h' := (toNat_opcodeClass op).symm.trans h
    rw [decodeMf_feature pos other ops h']
    exact decodeFeature_readsBack pos other op ops h'
  · have hshaped : cvShaped op = true := (cvShaped_iff op).2 h
    rw [decodeMf_cvShaped pos other hshaped]
    exact (decodeCvAccess_readsBack pos other op ops hshaped).mono (List.subset_cons_self ..) fun _ => .inl
  · rw [decodeMf_shortForm pos other ops h]
    exact (decodeShortForm_readsBack pos other op ops h).mono (List.Subset.refl _) fun _ => .inl

end

/-- Settles O29: a rejection means a reserved form, and an instruction read is the one whose encoding the bytes are. -/
theorem otherOpcodesAreInstructions : Obligations.OtherOpcodesAreInstructions := by
  intro pos other op ops hform htime
  have hread := decodeMf_readsBack pos other op ops
  cases hbody : decodeMf pos other (op :: ops) with
  | instr i =>
    rw [hbody] at hread
    cases hread with
    | instr hbytes => exact ⟨i, rfl, hbytes⟩
  | reject r =>
    rw [hbody] at hread
    cases hread with
    | reject hreserved =>
      obtain ⟨-, hreserved⟩ | ⟨-, hop, hops⟩ := hreserved
      · exact Bool.noConfusion (hform.symm.trans hreserved)
      · exact absurd hops (htime hop)

end Sys2Proof.Machine
end

section
/-! What the decoder reads from a whole content is the well-formed packet whose encoding the content is (30_encoding.md
R82 to R88). -/

namespace Sys2Proof.Machine

/-- `content` is the encoding of the header `h` and the instruction `i`, which may follow it and whose row admits its
operands. -/
structure PacketEncodes (svc : Bool) (content : List Byte) (h : Header) (i : Instr) : Prop where
  bytes_eq : encodePacket h i = content
  fits : headerFits svc h i = true
  operands_ok : i.operandsOk = true

/-! ### After a multi-function header -/

theorem headerFits_of_mfHeader {svc : Bool} {h : Header} {i : Instr} (hh : mfHeader svc h = true)
    (hplace : i.place ∈ afterAddress) : headerFits svc h i = true := by
  have hp : (i.place == .multiFunction || i.place == .cvAccess) = true := by
    simpa [afterAddress] using hplace
  cases h with
  | broadcast => exact hp
  | mf7 a => rwa [headerFits, hp, Bool.true_and]
  | mf14 hi lo => rwa [headerFits, hp, Bool.true_and]
  | bare | reserved _ | idleSystem | accPom _ _ _ _ | accExtPom _ _ _ => cases hh

theorem mfPacket_encodes {svc other : Bool} {h : Header} {i : Instr} {pos : Nat} {rest : List Byte}
    (hh : mfHeader svc h = true) (hd : decodeMf pos other rest = .instr i) :
    PacketEncodes svc (encodeHeader h ++ rest) h i := by
  cases rest with
  | nil => cases hd
  | cons op ops =>
    have hread := decodeMf_readsBack pos other op ops
    rw [hd] at hread
    cases hread with
    | instr hbytes hplace hok => exact ⟨congrArg _ hbytes, headerFits_of_mfHeader hh hplace, hok⟩

/-! ### Service-mode packets -/

theorem decodeService_encodes {a : Byte} {rest : List Byte} {i : Instr} (h112 : 112 ≤ a.toNat) (h127 : a.toNat ≤ 127)
    (hd : decodeService a rest = .instr i) : PacketEncodes true (a :: rest) .bare i := by
  have hhalf : a.extractLsb' 4 4 = 0b0111#4 :=
    BitVec.eq_of_toNat_eq ((toNat_highBits a (by decide)).trans (show a.toNat / 16 = 7 by omega))
  have hdirect {cc : BitVec 2} {high : BitVec 6} (hcc : a.extractLsb' 2 2 = cc) (hhigh : 0b0111#4 ++ cc = high) :
      (high ++ a.extractLsb' 0 2) :: rest = a :: rest := by
    rw [← hhigh, ← hcc, halfByte_fields hhalf]
  have hregister {c : BitVec 1} {high : BitVec 5} (hc : a.extractLsb' 3 1 = c) (hhigh : 0b0111#4 ++ c = high) :
      (high ++ a.extractLsb' 0 3) :: rest = a :: rest := by
    rw [← hhigh, ← hc, halfByte_bitFields hhalf]
  unfold decodeService at hd
  split at hd
  next htwo =>
    split_ifs at hd with hverify hbit hwrite
    · cases hd
      exact ⟨hdirect hverify rfl, rfl, beq_iff_eq.2 htwo⟩
    · cases hd
      exact ⟨hdirect hbit rfl, rfl, beq_iff_eq.2 htwo⟩
    · cases hd
      exact ⟨hdirect hwrite rfl, rfl, beq_iff_eq.2 htwo⟩
  next hone =>
    split_ifs at hd with hverify
    · cases hd
      exact ⟨hregister hverify rfl, rfl, beq_iff_eq.2 hone⟩
    · cases hd
      exact ⟨hregister ((BitVec.eq_zero_or_eq_one _).resolve_left hverify) rfl, rfl, beq_iff_eq.2 hone⟩
  next => cases hd

/-! ### Accessory packets -/

theorem cvAccess_encodes {svc : Bool} {h : Header} {op : Byte} {ops : List Byte} {pos : Nat} {i : Instr}
    (hop : cvShaped op = true) (hfits : i.place = .cvAccess → i.size = 1 + ops.length → headerFits svc h i = true)
    (hd : decodeCvAccess pos false op ops = .instr i) : PacketEncodes svc (encodeHeader h ++ op :: ops) h i := by
  have hread := decodeCvAccess_readsBack pos false op ops hop
  rw [hd] at hread
  cases hread with
  | instr hbytes hplace hok =>
    have hsize : i.size = 1 + ops.length := by
      rw [← length_encode, hbytes, List.length_cons, Nat.add_comm]
    exact ⟨congrArg _ hbytes, hfits (List.mem_singleton.1 hplace) hsize, hok⟩

/-- Byte 1 of an extended accessory packet, `0aaa0PP1` (42_dispatch.md R196). -/
theorem extendedByte_eq {b : Byte} (h7 : b.extractLsb' 7 1 = 0#1) (h3 : b.extractLsb' 3 1 = 0#1)
    (h0 : b.extractLsb' 0 1 = 1#1) : 0#1 ++ b.extractLsb' 4 3 ++ 0#1 ++ b.extractLsb' 1 2 ++ 1#1 = b := by
  have hb := accessoryByte_eq b
  rwa [h7, h3, h0] at hb

theorem decodeAccessory_encodes {svc : Bool} {a : Byte} {rest : List Byte} {h : Header} {i : Instr}
    (h128 : 128 ≤ a.toNat) (h191 : a.toNat ≤ 191) (hd : decodeAccessory a rest = ⟨h, .instr i⟩) :
    PacketEncodes svc (a :: rest) h i := by
  have ha : 0b10#2 ++ a.extractLsb' 0 6 = a :=
    highBits_append_lowBits (m := 2) (n := 6)
      (BitVec.eq_of_toNat_eq ((toNat_highBits a (by decide)).trans (show a.toNat / 64 = 2 by omega)))
  cases rest with
  | nil => cases hd
  | cons b ops =>
    have hb := accessoryByte_eq b
    by_cases h7 : b.extractLsb' 7 1 = 1#1
    · by_cases hshape : ops.head?.any cvShaped = true
      · cases ops with
        | nil => cases hshape
        | cons op more =>
          rw [decodeAccessory_pom h7 hshape, Packet.mk.injEq] at hd
          obtain ⟨rfl, hd⟩ := hd
          have hpom := pomByte_eq b
          have := cvAccess_encodes (svc := svc) hshape (h := .accPom (a.extractLsb' 0 6) (b.extractLsb' 4 3)
            (b.extractLsb' 3 1) (b.extractLsb' 0 3)) (fun hp _ => beq_iff_eq.2 hp) hd
          rwa [encodeHeader, ← h7, ha, hpom] at this
      · rw [decodeAccessory_basic h7 hshape, Packet.mk.injEq] at hd
        obtain ⟨rfl, hd⟩ := hd
        cases hd
        refine ⟨?_, rfl, ?_⟩
        · rw [encodePacket, encode, ha, ← h7, hb]
          rfl
        · simpa [Instr.operandsOk] using hshape
    · have h7z := (BitVec.eq_zero_or_eq_one _).resolve_right h7
      by_cases h3 : b.extractLsb' 3 1 = 1#1
      · rw [decodeAccessory_nop h7 h3, Packet.mk.injEq] at hd
        obtain ⟨rfl, hd⟩ := hd
        cases hd
        refine ⟨?_, rfl, rfl⟩
        rw [encodePacket, encode, ha, ← h7z, ← h3, hb]
        rfl
      · have h3z := (BitVec.eq_zero_or_eq_one _).resolve_right h3
        by_cases h0 : b.extractLsb' 0 1 = 1#1
        · by_cases hshape : 2 ≤ ops.length ∧ ops.head?.any cvShaped = true
          · obtain ⟨hlen, hshaped⟩ := hshape
            cases ops with
            | nil => cases hshaped
            | cons op more =>
              have hmore : more ≠ [] := by
                rintro rfl
                exact Nat.not_succ_le_self 1 hlen
              rw [decodeAccessory_extendedPom h7 h3 h0 hshaped hmore, Packet.mk.injEq] at hd
              obtain ⟨rfl, hd⟩ := hd
              have hpacket := cvAccess_encodes (svc := svc) hshaped
                (h := .accExtPom (a.extractLsb' 0 6) (b.extractLsb' 4 3) (b.extractLsb' 1 2))
                (fun hp hsize => by
                  rw [List.length_cons] at hlen
                  rw [headerFits, hp, hsize, decide_eq_true (by omega)]
                  rfl) hd
              rwa [encodeHeader, ha, extendedByte_eq h7z h3z h0] at hpacket
          · rw [decodeAccessory_extended h7 h3 h0 hshape, Packet.mk.injEq] at hd
            obtain ⟨rfl, hd⟩ := hd
            cases hd
            refine ⟨?_, rfl, ?_⟩
            · rw [encodePacket, encode, ha, extendedByte_eq h7z h3z h0]
              rfl
            · rwa [Instr.operandsOk, Bool.not_eq_true', ← Bool.not_eq_true, Bool.and_eq_true, decide_eq_true_eq]
        · rw [decodeAccessory_reserved h7 h3 h0] at hd
          cases hd

/-! ### Every packet -/

/-- A content that holds an instruction is the encoding of its header and that instruction. -/
theorem decodePacket_encodes {svc : Bool} {content : List Byte} {h : Header} {i : Instr}
    (hd : decodePacket svc content = ⟨h, .instr i⟩) : PacketEncodes svc content h i := by
  cases content with
  | nil => cases hd
  | cons a rest =>
    have hlt := a.isLt
    unfold decodePacket at hd
    dsimp only at hd
    split_ifs at hd with h0 h128 hsvc h192 h232 h255
    · rw [Packet.mk.injEq] at hd
      obtain ⟨rfl, hd⟩ := hd
      have ha : a = 0x00#8 := BitVec.eq_of_toNat_eq h0
      rw [ha]
      exact mfPacket_encodes (h := .broadcast) rfl hd
    · obtain ⟨rfl, h112⟩ := Bool.and_eq_true_iff.1 hsvc
      rw [Packet.mk.injEq] at hd
      obtain ⟨rfl, hd⟩ := hd
      exact decodeService_encodes (of_decide_eq_true h112) (by omega) hd
    · rw [Packet.mk.injEq] at hd
      obtain ⟨rfl, hd⟩ := hd
      have ha : 0#1 ++ a.extractLsb' 0 7 = a :=
        highBits_append_lowBits (m := 1) (n := 7)
          (BitVec.eq_of_toNat_eq ((toNat_highBits a (by decide)).trans (show a.toNat / 128 = 0 by omega)))
      have hnum : (a.extractLsb' 0 7).toNat = a.toNat := (toNat_lowBits a 7).trans (by omega)
      have hheader : mfHeader svc (.mf7 (a.extractLsb' 0 7)) = true := by
        have hne : a.extractLsb' 0 7 ≠ 0 := by
          rw [← BitVec.toNat_ne_iff_ne, hnum]
          exact h0
        rw [mfHeader, hnum, bne_iff_ne.2 hne, Bool.true_and, Bool.not_eq_true', ← Bool.not_eq_true]
        exact hsvc
      have hpacket := mfPacket_encodes hheader hd
      rwa [encodeHeader, ha] at hpacket
    · exact decodeAccessory_encodes (by omega) (by omega) hd
    · cases rest with
      | nil => cases hd
      | cons b more =>
        rw [Packet.mk.injEq] at hd
        obtain ⟨rfl, hd⟩ := hd
        have ha : 0b11#2 ++ a.extractLsb' 0 6 = a :=
          highBits_append_lowBits (m := 2) (n := 6)
            (BitVec.eq_of_toNat_eq ((toNat_highBits a (by decide)).trans (show a.toNat / 64 = 3 by omega)))
        have hnum : (a.extractLsb' 0 6).toNat = a.toNat % 64 := toNat_lowBits a 6
        have hpacket := mfPacket_encodes (svc := svc) (h := .mf14 (a.extractLsb' 0 6) b)
          (decide_eq_true (by omega)) hd
        rwa [encodeHeader, ha] at hpacket
    · cases hd
    · have ha : a = 0xFF#8 := BitVec.eq_of_toNat_eq (show a.toNat = 255 by omega)
      subst ha
      cases rest with
      | nil => cases hd
      | cons b more =>
        rw [Packet.mk.injEq, Body.instr.injEq] at hd
        obtain ⟨rfl, rfl⟩ := hd
        split_ifs with hb
        · subst hb
          exact ⟨rfl, rfl, rfl⟩
        · exact ⟨rfl, rfl, bne_iff_ne.2 hb⟩

theorem PacketEncodes.size_eq {svc : Bool} {content : List Byte} {h : Header} {i : Instr}
    (hp : PacketEncodes svc content h i) : h.size + i.size = content.length := by
  rw [← hp.bytes_eq, encodePacket, List.length_append, length_encodeHeader, length_encode]

/-- Only an instruction that is a whole packet or a service-mode packet has no byte before it (42_dispatch.md R185). -/
theorem one_le_headerSize {svc : Bool} {h : Header} {i : Instr} (hfits : headerFits svc h i = true)
    (hplace : i.place = .multiFunction ∨ i.place = .cvAccess) : 1 ≤ h.size := by
  cases h with
  | bare =>
    obtain hp | hp := hplace
    · rw [headerFits, hp] at hfits
      cases hfits
    · rw [headerFits, hp] at hfits
      cases hfits
  | mf14 _ _ | accPom _ _ _ _ | accExtPom _ _ _ => exact Nat.le_succ 1
  | broadcast | mf7 _ | reserved _ | idleSystem => exact Nat.le_refl 1

theorem PacketEncodes.wf {svc : Bool} {content : List Byte} {h : Header} {i : Instr}
    (hp : PacketEncodes svc content h i) (hlen : content.length ≤ 15) : packetWf svc h i = true := by
  have hsize : h.size + i.size ≤ maxContent := hp.size_eq.trans_le hlen
  have hone := one_le_headerSize hp.fits
  have hwf : i.wf = true := by
    refine Bool.and_eq_true_iff.2 ⟨hp.operands_ok, ?_⟩
    cases hplace : i.place with
    | multiFunction =>
      have := hone (.inl hplace)
      exact decide_eq_true (by omega)
    | cvAccess =>
      have := hone (.inr hplace)
      exact decide_eq_true (by omega)
    | service | packet => exact decide_eq_true (by omega)
  rw [packetWf, hwf, hp.fits, decide_eq_true hsize]
  rfl

/-- Settles O25. -/
theorem decodedContentIsWellFormed : Obligations.DecodedContentIsWellFormed := by
  intro svc content h i hlen hd
  have hpacket := decodePacket_encodes hd
  exact ⟨hpacket.wf hlen, hpacket.bytes_eq⟩

end Sys2Proof.Machine
end

section
/-! What an instruction reports: fields before its INSTR that are no INSTR, the INSTR with its own id, and the fields of
its operands, BYTE_MISSING only at the end (30_encoding.md R98, R100, 42_dispatch.md R182). Every field of several bytes
is over bytes the instruction has. -/

namespace Sys2Proof.Machine

/-! ### The shape of a report -/

/-- A field is over one byte, or over bytes that come before content byte `n`. -/
def Field.Spans (n : Nat) (f : Field) : Prop := f.first = f.last ∨ (f.first ≤ f.last ∧ f.last < n)

/-- A field that is neither INSTR nor BYTE_MISSING. -/
structure Field.Plain (n : Nat) (f : Field) : Prop where
  not_instr : f.code ≠ 2
  not_missing : f.code ≠ 3
  spans : f.Spans n

/-- The fields of an instruction's operands: plain ones, and a BYTE_MISSING only as the last. -/
inductive OperandFields (n : Nat) : List Field → Prop where
  | nil : OperandFields n []
  | missing (pos : Nat) : OperandFields n [missingField pos]
  | field {f : Field} {fs : List Field} : f.Plain n → OperandFields n fs → OperandFields n (f :: fs)

/-- The fields of an instruction: plain ones, its INSTR, and its operands'. -/
inductive InstrFields (n : Nat) (id : Word) : List Field → Prop where
  | instr {i : Nat} {fs : List Field} : OperandFields n fs → InstrFields n id (instrField i id :: fs)
  | field {f : Field} {fs : List Field} : f.Plain n → InstrFields n id fs → InstrFields n id (f :: fs)

section
variable {n : Nat} {code a1 a2 a3 : Word}

/-- The code of a plain field. -/
def plainCode (code : Word) : Bool := code != 2 && code != 3

theorem plainCode_iff (code : Word) : plainCode code = true ↔ code ≠ 2 ∧ code ≠ 3 := by
  rw [plainCode, Bool.and_eq_true, bne_iff_ne, bne_iff_ne]

theorem Field.plain_byte {k : Nat} (h : plainCode code = true) : Field.Plain n ⟨code, a1, a2, a3, k, k⟩ :=
  have ⟨h2, h3⟩ := (plainCode_iff code).1 h
  ⟨h2, h3, .inl rfl⟩

theorem Field.plain_bytes {i j : Nat} (h : plainCode code = true) (hij : i ≤ j) (hj : j < n) :
    Field.Plain n ⟨code, a1, a2, a3, i, j⟩ :=
  have ⟨h2, h3⟩ := (plainCode_iff code).1 h
  ⟨h2, h3, .inr ⟨hij, hj⟩⟩

/-- A plain field over one byte before an instruction's other operand fields. -/
theorem OperandFields.byte {k : Nat} {fs : List Field} (h : plainCode code = true)
    (hs : OperandFields n fs) : OperandFields n (⟨code, a1, a2, a3, k, k⟩ :: fs) :=
  .field (Field.plain_byte h) hs

end

theorem OperandFields.append {n : Nat} {fs gs : List Field} (hf : ∀ f ∈ fs, f.Plain n) (hg : OperandFields n gs) :
    OperandFields n (fs ++ gs) := by
  induction fs with
  | nil => exact hg
  | cons f fs ih => exact .field (hf f (List.mem_cons_self ..)) (ih fun g h => hf g (List.mem_cons_of_mem _ h))

/-! ### Operand operations -/

section
variable {n : Nat}

theorem perByte_fields {mk : Nat → Byte → Field} (h : ∀ k d, (mk k d).Plain n) (pos : Nat) (ops : List Byte) :
    OperandFields n (perByte mk pos ops) := by
  induction ops generalizing pos with
  | nil => exact .nil
  | cons d rest ih => exact .field (h pos d) (ih (pos + 1))

theorem unclaimed_fields (pos : Nat) (ops : List Byte) : OperandFields n (unclaimed pos ops) :=
  perByte_fields (fun _ _ => Field.plain_byte rfl) pos ops

theorem take_fields {pos : Nat} {ops : List Byte} {go : Byte → List Byte → List Field}
    (h : ∀ d rest, ops = d :: rest → OperandFields n (go d rest)) : OperandFields n (take pos ops go) := by
  cases ops with
  | nil => exact .missing pos
  | cons d rest => exact h d rest rfl

theorem cvDataField_plain (k : Nat) (d : Byte) : (cvDataField k d).Plain n := Field.plain_byte rfl

theorem bitOpField_plain (k : Nat) (d : Byte) : (bitOpField k d).Plain n := Field.plain_byte rfl

theorem moreCvData_fields (count pos : Nat) (ops : List Byte) : OperandFields n (moreCvData count pos ops) := by
  induction count generalizing pos ops with
  | zero =>
    cases ops with
    | nil => exact .nil
    | cons d rest => exact unclaimed_fields pos (d :: rest)
  | succ count ih =>
    cases ops with
    | nil => exact .nil
    | cons d rest => exact .byte rfl (ih (pos + 1) rest)

/-! ### Shapes that several instructions share -/

variable (i : Nat) (id : Word) (ops : List Byte)

theorem plainFields_report : InstrFields n id (plainFields i id ops) := .instr (unclaimed_fields _ _)

theorem flagFields_report (f : BitVec 1) : InstrFields n id (flagFields i id f ops) :=
  .instr (.byte rfl (unclaimed_fields _ _))

theorem consistFields_report (direction : Word) : InstrFields n id (consistFields i id direction ops) :=
  .instr (take_fields fun _ _ _ => .byte rfl (unclaimed_fields _ _))

theorem speedFields_report (dir : Word) (speed14 : Bool) (c : BitVec 1) (speed : BitVec 4) :
    InstrFields n id (speedFields i id dir speed14 c speed ops) := by
  cases speed14 with
  | true => exact .instr (.byte rfl (.byte rfl (unclaimed_fields _ _)))
  | false => exact .instr (.byte rfl (unclaimed_fields _ _))

theorem functionByteFields_report (firstFn : Word) : InstrFields n id (functionByteFields i id firstFn ops) :=
  .instr (take_fields fun _ _ _ => .byte rfl (unclaimed_fields _ _))

theorem notBroadcast_plain (c : Cursor) : ∀ f ∈ notBroadcast i c, f.Plain n := by
  unfold notBroadcast
  split
  · nofun
  · intro f hf
    rw [List.mem_singleton.1 hf]
    exact Field.plain_byte rfl

/-- A time command, which has two bytes before `ops`. -/
theorem timeFields_report (c : Cursor) {go : Byte → Byte → List Field}
    (hgo : ∀ b2 b3, i + 4 ≤ n → ∀ f ∈ go b2 b3, f.Plain n) (hn : i + (2 + ops.length) ≤ n) :
    InstrFields n id (timeFields i id c ops go) := by
  refine .instr (.append (notBroadcast_plain i c) (take_fields ?_))
  rintro b2 rest rfl
  refine take_fields ?_
  rintro b3 rest rfl
  rw [List.length_cons, List.length_cons] at hn
  exact .append (hgo b2 b3 (by omega)) (unclaimed_fields _ _)

theorem pomFields_report (operation : Word) {data : Nat → Byte → Field} (hdata : ∀ k d, (data k d).Plain n)
    (v : BitVec 2) : InstrFields n id (pomFields i id operation data v ops) :=
  .instr (take_fields fun _ _ _ => .byte rfl (take_fields fun _ _ _ => .field (hdata _ _) (unclaimed_fields _ _)))

theorem directFields_report (operation : Word) {data : Nat → Byte → Field} (hdata : ∀ k d, (data k d).Plain n)
    (a : BitVec 2) : InstrFields n id (directFields id operation data a ops) := by
  rw [directFields_eq_pomFields]
  exact pomFields_report _ _ _ _ hdata _

theorem xpomFields_report (operation : Word) (ss : BitVec 2) {go : List Byte → List Field}
    (hgo : ∀ rest, OperandFields n (go rest)) (hn : i + (1 + ops.length) ≤ n) :
    InstrFields n id (xpomFields i id operation ss ops go) := by
  refine .instr (take_fields ?_)
  rintro v2 rest rfl
  refine take_fields ?_
  rintro v1 rest rfl
  refine take_fields ?_
  rintro v0 rest rfl
  simp only [List.length_cons] at hn
  exact .field (Field.plain_bytes rfl (by omega) (by omega)) (hgo rest)

theorem oneCvFields_report (cv : Word) : InstrFields n id (oneCvFields i id cv ops) :=
  .instr (.byte rfl (take_fields fun _ _ _ => .byte rfl (unclaimed_fields _ _)))

theorem twoCvFields_report (cv1 cv2 : Word) : InstrFields n id (twoCvFields i id cv1 cv2 ops) :=
  .instr (.byte rfl (take_fields fun _ _ _ =>
    .byte rfl (.byte rfl (take_fields fun _ _ _ => .byte rfl (unclaimed_fields _ _)))))

theorem registerFields_report (operation : Word) (r : BitVec 3) :
    InstrFields n id (registerFields id operation r ops) :=
  .instr (take_fields fun _ _ _ => .byte rfl (unclaimed_fields _ _))

/-- Two operand bytes that one field is about. -/
theorem twoByteField_fields {code : Word} {a1 a2 : Byte → Byte → Word} (h : plainCode code = true)
    (hn : i + (1 + ops.length) ≤ n) :
    OperandFields n (take (i + 1) ops fun b1 rest => take (i + 2) rest fun b2 rest =>
      ⟨code, a1 b1 b2, a2 b1 b2, 0, i + 1, i + 2⟩ :: unclaimed (i + 3) rest) := by
  refine take_fields ?_
  rintro b1 rest rfl
  refine take_fields ?_
  rintro b2 rest rfl
  simp only [List.length_cons] at hn
  exact .field (Field.plain_bytes h (by omega) (by omega)) (unclaimed_fields _ _)

end

/-! ### Every instruction -/

/-- Every instruction reports its own id once, in the shape above, over bytes it has. -/
theorem exec_report (i : Instr) (s : State) :
    ∃ fs : List Field, exec i s = .next (s.emitFields fs) ∧
      InstrFields (s.cur.pos + i.size) (BitVec.ofNat 32 (instrId i)) fs := by
  cases i with
  | reset ops => exact ⟨_, rfl, plainFields_report _ _ _⟩
  | hardReset ops => exact ⟨_, rfl, plainFields_report _ _ _⟩
  | factoryTest f ops => exact ⟨_, rfl, flagFields_report _ _ _ _⟩
  | setDecoderFlags f ops =>
    exact ⟨_, rfl, .instr (.byte rfl (take_fields fun _ _ _ => .byte rfl (unclaimed_fields _ _)))⟩
  | setAdvAddr f ops => exact ⟨_, rfl, flagFields_report _ _ _ _⟩
  | ackRequest f ops => exact ⟨_, rfl, flagFields_report _ _ _ _⟩
  | consistNormal ops => exact ⟨_, rfl, consistFields_report _ _ _ _⟩
  | consistReverse ops => exact ⟨_, rfl, consistFields_report _ _ _ _⟩
  | speed128 ops => exact ⟨_, rfl, .instr (take_fields fun _ _ _ => .byte rfl (unclaimed_fields _ _))⟩
  | restrictedSpeed ops => exact ⟨_, rfl, .instr (take_fields fun _ _ _ => .byte rfl (unclaimed_fields _ _))⟩
  | analogFunction ops => exact ⟨_, rfl, .instr (twoByteField_fields _ _ rfl (Nat.le_refl _))⟩
  | speedRev c speed ops => exact ⟨_, rfl, speedFields_report _ _ _ _ _ _ _⟩
  | speedFwd c speed ops => exact ⟨_, rfl, speedFields_report _ _ _ _ _ _ _⟩
  | fg1 f0 f ops =>
    refine ⟨_, rfl, ?_⟩
    cases s.speed14 with
    | true => exact .instr (.byte rfl (.byte rfl (unclaimed_fields _ _)))
    | false => exact .instr (.byte rfl (unclaimed_fields _ _))
  | fg2F5F8 f ops => exact ⟨_, rfl, .instr (.byte rfl (unclaimed_fields _ _))⟩
  | fg2F9F12 f ops => exact ⟨_, rfl, .instr (.byte rfl (unclaimed_fields _ _))⟩
  | binstateLong ops => exact ⟨_, rfl, .instr (twoByteField_fields _ _ rfl (Nat.le_refl _))⟩
  | modelTime minute ops =>
    refine ⟨_, rfl, timeFields_report _ _ _ _ (fun b2 b3 hn => ?_) (Nat.le_refl _)⟩
    simp only [List.forall_mem_cons]
    exact ⟨Field.plain_bytes rfl (by omega) (by omega), Field.plain_byte rfl, Field.plain_byte rfl, nofun⟩
  | modelDate low ops =>
    refine ⟨_, rfl, timeFields_report _ _ _ _ (fun b2 b3 hn => ?_) (Nat.le_refl _)⟩
    simp only [List.forall_mem_cons]
    exact ⟨Field.plain_bytes rfl (by omega) (by omega), Field.plain_bytes rfl (by omega) (by omega), nofun⟩
  | systemTime low ops =>
    refine ⟨_, rfl, timeFields_report _ _ _ _ (fun b2 b3 hn => ?_) (Nat.le_refl _)⟩
    simp only [List.forall_mem_cons]
    exact ⟨Field.plain_bytes rfl (by omega) (by omega), nofun⟩
  | f29F36 ops => exact ⟨_, rfl, functionByteFields_report _ _ _ _⟩
  | f37F44 ops => exact ⟨_, rfl, functionByteFields_report _ _ _ _⟩
  | f45F52 ops => exact ⟨_, rfl, functionByteFields_report _ _ _ _⟩
  | f53F60 ops => exact ⟨_, rfl, functionByteFields_report _ _ _ _⟩
  | f61F68 ops => exact ⟨_, rfl, functionByteFields_report _ _ _ _⟩
  | binstateShort ops => exact ⟨_, rfl, .instr (take_fields fun _ _ _ => .byte rfl (unclaimed_fields _ _))⟩
  | f13F20 ops => exact ⟨_, rfl, functionByteFields_report _ _ _ _⟩
  | f21F28 ops => exact ⟨_, rfl, functionByteFields_report _ _ _ _⟩
  | pomVerify v ops => exact ⟨_, rfl, pomFields_report _ _ _ _ cvDataField_plain _⟩
  | pomBit v ops => exact ⟨_, rfl, pomFields_report _ _ _ _ bitOpField_plain _⟩
  | pomWrite v ops => exact ⟨_, rfl, pomFields_report _ _ _ _ cvDataField_plain _⟩
  | xpomRead ss ops =>
    exact ⟨_, rfl, xpomFields_report _ _ _ _ _ (fun _ => unclaimed_fields _ _) (Nat.le_refl _)⟩
  | xpomBit ss ops =>
    exact ⟨_, rfl, xpomFields_report _ _ _ _ _
      (fun _ => take_fields fun _ _ _ => .byte rfl (unclaimed_fields _ _)) (Nat.le_refl _)⟩
  | xpomWrite ss ops =>
    exact ⟨_, rfl, xpomFields_report _ _ _ _ _
      (fun _ => take_fields fun _ _ _ => .byte rfl (moreCvData_fields _ _ _)) (Nat.le_refl _)⟩
  | cvAccel ops => exact ⟨_, rfl, oneCvFields_report _ _ _ _⟩
  | cvDecel ops => exact ⟨_, rfl, oneCvFields_report _ _ _ _⟩
  | cvLongaddr ops => exact ⟨_, rfl, twoCvFields_report _ _ _ _ _⟩
  | cvIndex ops => exact ⟨_, rfl, twoCvFields_report _ _ _ _ _⟩
  | decoderLock ops => exact ⟨_, rfl, .instr (take_fields fun _ _ _ => .byte rfl (unclaimed_fields _ _))⟩
  | smDirectVerify a ops => exact ⟨_, rfl, directFields_report _ _ _ cvDataField_plain _⟩
  | smDirectBit a ops => exact ⟨_, rfl, directFields_report _ _ _ bitOpField_plain _⟩
  | smDirectWrite a ops => exact ⟨_, rfl, directFields_report _ _ _ cvDataField_plain _⟩
  | smRegVerify r ops => exact ⟨_, rfl, registerFields_report _ _ _ _⟩
  | smRegWrite r ops => exact ⟨_, rfl, registerFields_report _ _ _ _⟩
  | accBasic lo hi d port r ops =>
    refine ⟨_, rfl, .field (Field.plain_bytes rfl (Nat.zero_le 1) ?_) (.instr (.byte rfl (unclaimed_fields _ _)))⟩
    rw [Instr.size]
    omega
  | accExt lo hi port ops =>
    refine ⟨_, rfl, .field (Field.plain_bytes rfl (Nat.zero_le 1) ?_)
      (.instr (take_fields fun _ _ _ => .byte rfl (unclaimed_fields _ _)))⟩
    rw [Instr.size]
    omega
  | accNop lo hi port t ops =>
    refine ⟨_, rfl, .field (Field.plain_bytes rfl (Nat.zero_le 1) ?_) (.instr (.byte rfl (unclaimed_fields _ _)))⟩
    rw [Instr.size]
    omega
  | idle ops => exact ⟨_, rfl, .field (Field.plain_byte rfl) (.instr (unclaimed_fields _ _))⟩
  | sysCmd n ops =>
    exact ⟨_, rfl, .field (Field.plain_byte rfl)
      (.instr (.byte rfl (perByte_fields (fun _ _ => Field.plain_byte rfl) _ _)))⟩

/-! ### What the shape says -/

theorem mem_dropLast_cons {α : Type} {a b : α} {l : List α} (h : b ∈ (a :: l).dropLast) :
    b = a ∨ b ∈ l.dropLast := by
  cases l with
  | nil => cases h
  | cons c l => exact List.mem_cons.1 h

section
variable {n : Nat} {id : Word} {fs : List Field}

theorem OperandFields.not_instr (h : OperandFields n fs) : ∀ f ∈ fs, f.code ≠ 2 := by
  induction h with
  | nil => nofun
  | missing pos =>
    intro f hf
    rw [List.mem_singleton.1 hf]
    exact bne_iff_ne.1 rfl
  | field hplain _ ih => exact List.forall_mem_cons.2 ⟨hplain.not_instr, ih⟩

theorem OperandFields.missing_last (h : OperandFields n fs) : ∀ f ∈ fs.dropLast, f.code ≠ 3 := by
  induction h with
  | nil => nofun
  | missing pos => nofun
  | field hplain _ ih =>
    intro f hf
    obtain rfl | hf := mem_dropLast_cons hf
    · exact hplain.not_missing
    · exact ih f hf

theorem OperandFields.spans (h : OperandFields n fs) : ∀ f ∈ fs, f.Spans n := by
  induction h with
  | nil => nofun
  | missing pos =>
    intro f hf
    rw [List.mem_singleton.1 hf]
    exact .inl rfl
  | field hplain _ ih => exact List.forall_mem_cons.2 ⟨hplain.spans, ih⟩

/-- Exactly one field of an instruction is INSTR, and it carries the id. -/
theorem InstrFields.ids (h : InstrFields n id fs) : (fs.filter fun f => f.code == 2).map Field.a1 = [id] := by
  induction h with
  | instr hops =>
    have hnone : List.filter (fun f : Field => f.code == 2) _ = [] :=
      List.filter_eq_nil_iff.2 fun f hf => by simpa using hops.not_instr f hf
    rw [List.filter_cons_of_pos rfl, hnone]
    rfl
  | field hplain _ ih =>
    rw [List.filter_cons_of_neg (by simpa using hplain.not_instr)]
    exact ih

theorem InstrFields.missing_last (h : InstrFields n id fs) : ∀ f ∈ fs.dropLast, f.code ≠ 3 := by
  induction h with
  | instr hops =>
    intro f hf
    obtain rfl | hf := mem_dropLast_cons hf
    · exact bne_iff_ne.1 rfl
    · exact hops.missing_last f hf
  | field hplain _ ih =>
    intro f hf
    obtain rfl | hf := mem_dropLast_cons hf
    · exact hplain.not_missing
    · exact ih f hf

theorem InstrFields.spans (h : InstrFields n id fs) : ∀ f ∈ fs, f.Spans n := by
  induction h with
  | instr hops => exact List.forall_mem_cons.2 ⟨.inl rfl, hops.spans⟩
  | field hplain _ ih => exact List.forall_mem_cons.2 ⟨hplain.spans, ih⟩

/-- The same of the records: one INSTR record, with the id. -/
theorem InstrFields.record_ids (h : InstrFields n id fs) (pkt : List PktByte) :
    ((fs.map (fieldRecord pkt)).filter fun r => r.a0 == 2).map Record.a1 = [id] := by
  rw [List.filter_map, List.map_map]
  exact h.ids

end

/-- Settles O22: the records are those of the fields `exec_report` gives. -/
theorem everyInstructionReportsItsIdOnce : Obligations.EveryInstructionReportsItsIdOnce := by
  intro i s
  obtain ⟨fs, hexec, hreport⟩ := exec_report i s
  refine ⟨fs.map (fieldRecord s.dp.pkt), hexec, ?_, hreport.record_ids _, ?_⟩
  · intro r hr
    obtain ⟨f, -, rfl⟩ := List.mem_map.1 hr
    exact fieldRecord_kind _ f
  · rw [← List.map_dropLast]
    intro r hr
    obtain ⟨f, hf, rfl⟩ := List.mem_map.1 hr
    exact hreport.missing_last f hf

end Sys2Proof.Machine
end

section
/-! The placing of an opcode-table word (log entries 4 and 5): the content it stands for fits the packet buffer, the
placed window is a ONE, and of the records of the step only the instruction's own fields hold an INSTR. -/

namespace Sys2Proof.Machine

/-! ### The placed content -/

theorem length_wordBytes (w k : Nat) : (wordBytes w k).length = k := by
  induction k generalizing w with
  | zero => rfl
  | succ k ih => exact congrArg (· + 1) (ih (w / 256))

theorem length_tableBytes_le {nbits : Nat} (h : nbits ≤ 96) (w : Nat) : (tableBytes nbits w).length ≤ 12 := by
  unfold tableBytes
  split
  · exact Nat.le_of_ble_eq_true rfl
  · rw [length_wordBytes]
    omega

theorem length_padTo (n : Nat) (bytes : List Byte) : (padTo n bytes).length = max n bytes.length := by
  rw [padTo, List.length_append, List.length_replicate]
  omega

theorem operandBytes_le (op : Byte) : operandBytes op ≤ 3 := by
  unfold operandBytes
  repeat' split
  all_goals exact Nat.le_of_ble_eq_true rfl

/-- A word of at most 96 bits stands for a content that fits the packet buffer. -/
theorem length_tableContent_le {nbits : Nat} (h : nbits ≤ 96) (w : Nat) : (tableContent nbits w).2.length ≤ 13 := by
  have hlen := length_tableBytes_le h w
  unfold tableContent
  cases hbytes : tableBytes nbits w with
  | nil => exact Nat.zero_le _
  | cons a rest =>
    rw [hbytes] at hlen
    have hpad {n : Nat} (hn : n ≤ 12) : (padTo n (a :: rest)).length ≤ 12 := by
      rw [length_padTo]
      omega
    have hop := operandBytes_le a
    dsimp only
    split
    · split
      · exact (hpad (Nat.le_of_ble_eq_true rfl)).trans (Nat.le_succ _)
      · exact (hpad (Nat.le_of_ble_eq_true rfl)).trans (Nat.le_succ _)
    split
    · split
      · exact (hpad (Nat.le_of_ble_eq_true rfl)).trans (Nat.le_succ _)
      · exact hlen.trans (Nat.le_succ _)
    · exact Nat.succ_le_succ (hpad (by omega))

theorem decodeTableWord_eq_some {nbits w : Nat} {i : Instr} (h : decodeTableWord nbits w = some i) :
    ∃ header, decodePacket (tableContent nbits w).1 (tableContent nbits w).2 = ⟨header, .instr i⟩ := by
  unfold decodeTableWord at h
  dsimp only at h
  cases hd : decodePacket (tableContent nbits w).1 (tableContent nbits w).2 with
  | mk header body =>
    rw [hd] at h
    cases body with
    | instr j =>
      cases h
      exact ⟨header, rfl⟩
    | reject r => cases h

/-! ### The placed packet -/

theorem length_rangedBytes (start : Nat) (content : List Byte) : (rangedBytes start content).length = content.length := by
  induction content generalizing start with
  | nil => rfl
  | cons b rest ih => exact congrArg (· + 1) (ih _)

theorem map_val_rangedBytes (start : Nat) (content : List Byte) :
    (rangedBytes start content).map PktByte.val = content := by
  induction content generalizing start with
  | nil => rfl
  | cons b rest ih => exact congrArg (b :: ·) (ih _)

section
variable (svc : Bool) (content : List Byte) (s : State)

theorem placePacket_serviceMode : (placePacket svc content s).serviceMode = svc := by
  have h : (0#1 ++ (s.mode.extractLsb' 1 1 ++ BitVec.ofBool svc)).getLsbD 0 = svc := by
    simp only [BitVec.getLsbD_append]
    simp
  exact h

theorem placePacket_ignoreShort : (placePacket svc content s).ignoreShort = false := by
  have h : (0#1 ++ (s.mode.extractLsb' 1 1 ++ BitVec.ofBool svc)).getLsbD 2 = false := by
    simp only [BitVec.getLsbD_append]
    simp
  exact h

/-- Two halves of 58 samples at 1 MHz are a ONE at every tolerance (40_classifier.md R119). -/
theorem classifyHalves_placed (tol : Nat) : (classifyHalves 1000000 tol 58 58).1 = .one := by
  have hhalf : oneHalf 1000000 tol 58 = true :=
    Bool.and_eq_true_iff.2 ⟨decide_eq_true (by omega), decide_eq_true (by omega)⟩
  rw [classifyHalves_eq_one_iff, isOne, hhalf]
  rfl

/-- The third edge of the placed window, which the step accepts. -/
def placedEdge (content : List Byte) : Ts := BitVec.ofNat 64 (1000 + 1800 * content.length + 1716)

theorem classify_placed (hlen : content.length ≤ 15) :
    (classify (placePacket svc content s) (placePacket svc content s).dp.t1 (placePacket svc content s).dp.t2
      (placedEdge content)).1 = .one := by
  have hnum {k : Nat} (hk : k ≤ 1716) :
      (BitVec.ofNat 64 (1000 + 1800 * content.length + k)).toNat = 1000 + 1800 * content.length + k := by
    rw [BitVec.toNat_ofNat]
    exact Nat.mod_eq_of_lt (by omega)
  have h1 : (placePacket svc content s).dp.t1.toNat = 1000 + 1800 * content.length + 1600 := hnum (by omega)
  have h2 : (placePacket svc content s).dp.t2.toNat = 1000 + 1800 * content.length + 1658 := hnum (by omega)
  have h3 : (placedEdge content).toNat = 1000 + 1800 * content.length + 1716 := hnum (by omega)
  rw [classify, h1, h2, h3, Nat.add_sub_add_left, Nat.add_sub_add_left]
  exact classifyHalves_placed _

/-- The next step finalises the placed packet. -/
theorem step_placePacket (hlen : content.length ≤ 15) :
    step (placePacket svc content s) =
      andThen (finalise (placePacket svc content s).dp.t1 (placedEdge content)
        (packetEndState (placePacket svc content s) (placedEdge content) s.host.script)) fun s' =>
        .next (s'.withDp { s'.dp with fsm := .wait, pkt := [] }) := by
  refine step_packetEnd (level := true) rfl (placePacket_ignoreShort svc content s) rfl rfl nofun rfl rfl rfl ?_
    (classify_placed svc content s hlen)
  exact (length_rangedBytes 1000 content).trans_lt (Nat.lt_succ_of_le hlen)

/-- The content the decoder gets from the placed packet is the one placed. -/
theorem specContent_placed (hne : content ≠ []) (ts : Ts) (rest : List HostAct) :
    specContent (packetEndState (placePacket svc content s) ts rest).dp.pkt = content := by
  refine specContent_of_hasContent ⟨hne, .inl ⟨xorBytes content, ?_⟩⟩
  have hmap := map_val_rangedBytes 1000 content
  change (rangedBytes 1000 content ++ [_]).map PktByte.val = _
  rw [List.map_append, hmap]
  rfl

end

/-! ### INSTR records -/

/-- A FIELD record of code INSTR. -/
def Record.isInstr (r : Record) : Bool := r.kind == 6 && r.a0 == 2

theorem filter_isInstr_of_kind {rs : List Record} (h : ∀ r ∈ rs, r.kind ≠ 6) : rs.filter Record.isInstr = [] := by
  refine List.filter_eq_nil_iff.2 fun r hr => ?_
  rw [Record.isInstr, beq_eq_false_iff_ne.2 (h r hr), Bool.false_and]
  exact Bool.false_ne_true

theorem headerFields_plain (h : Header) (accOffset : BitVec 16) {n : Nat} (hn : h.size ≤ n) :
    ∀ f ∈ headerFields h accOffset, f.Plain n := by
  cases h with
  | bare => nofun
  | broadcast | mf7 _ | reserved _ | idleSystem => exact List.forall_mem_cons.2 ⟨Field.plain_byte rfl, nofun⟩
  | mf14 _ _ | accExtPom _ _ _ => exact List.forall_mem_cons.2 ⟨Field.plain_bytes rfl (Nat.zero_le 1) hn, nofun⟩
  | accPom _ _ _ _ =>
    exact List.forall_mem_cons.2 ⟨Field.plain_bytes rfl (Nat.zero_le 1) hn,
      List.forall_mem_cons.2 ⟨Field.plain_byte rfl, nofun⟩⟩

theorem filter_isInstr_specHeader (s : State) (h : Header) : (specHeader s h).filter Record.isInstr = [] := by
  rw [← headerFields_records]
  refine List.filter_eq_nil_iff.2 fun r hr => ?_
  obtain ⟨f, hf, rfl⟩ := List.mem_map.1 hr
  have hcode := (headerFields_plain h s.accOffset (Nat.le_refl _) f hf).not_instr
  rw [Record.isInstr, fieldRecord, beq_eq_false_iff_ne.2 hcode, Bool.and_false]
  exact Bool.false_ne_true

theorem filter_isInstr_fields (pkt : List PktByte) (fs : List Field) :
    (fs.map (fieldRecord pkt)).filter Record.isInstr = (fs.map (fieldRecord pkt)).filter fun r => r.a0 == 2 := by
  refine List.filter_congr fun r hr => ?_
  obtain ⟨f, -, rfl⟩ := List.mem_map.1 hr
  rfl

theorem byteRecords_kind (i : Nat) (pkt : List PktByte) : ∀ r ∈ byteRecords i pkt, r.kind = 5 := by
  induction pkt generalizing i with
  | nil => nofun
  | cons b rest ih => exact List.forall_mem_cons.2 ⟨rfl, ih (i + 1)⟩

/-- The INSTR records of a finalised packet are its instruction's: one, with its id. -/
theorem finalise_instr_ids {s : State} {h : Header} {i : Instr} (m1 m3 : Ts)
    (hq : s.outq.filter Record.isInstr = [])
    (hd : decodePacket s.serviceMode (specContent s.dp.pkt) = ⟨h, .instr i⟩) :
    ∃ t, finalise m1 m3 s = .next t ∧
      (t.outq.filter Record.isInstr).map Record.a1 = [BitVec.ofNat 32 (instrId i)] := by
  rw [finalise_instr m1 m3 hd]
  obtain ⟨fs, hexec, hreport⟩ :=
    exec_report i ((s.emit (byteRecords 0 s.dp.pkt ++ specHeader s h)).withCur (specCursor h))
  rw [hexec]
  refine ⟨_, rfl, ?_⟩
  have hbytes : (byteRecords 0 s.dp.pkt).filter Record.isInstr = [] :=
    filter_isInstr_of_kind fun r hr => by
      rw [byteRecords_kind 0 s.dp.pkt r hr]
      exact bne_iff_ne.1 rfl
  have hids := hreport.record_ids s.dp.pkt
  rw [← filter_isInstr_fields] at hids
  simp only [State.emit_outq, State.withCur_outq, State.emitFields_outq, State.emit_dp, State.withCur_dp,
    List.filter_append, hq, hbytes, filter_isInstr_specHeader, List.nil_append, List.map_append, hids]
  rfl

/-- The step that closes the placed window reports the instruction that the placed content holds. -/
theorem step_placePacket_ids {svc : Bool} {content : List Byte} {h : Header} {i : Instr} (s : State)
    (hlen : content.length ≤ 15) (hd : decodePacket svc content = ⟨h, .instr i⟩) :
    ∃ t, step (placePacket svc content s) = .next t ∧
      (t.outq.filter Record.isInstr).map Record.a1 = [BitVec.ofNat 32 (instrId i)] := by
  have hne : content ≠ [] := by
    rintro rfl
    cases hd
  let u := packetEndState (placePacket svc content s) (placedEdge content) s.host.script
  have hsvc : u.serviceMode = svc := placePacket_serviceMode svc content s
  have hcontent : specContent u.dp.pkt = content := specContent_placed svc content s hne _ _
  obtain ⟨t, hfinal, hids⟩ := finalise_instr_ids (s := u) (placePacket svc content s).dp.t1 (placedEdge content) rfl
    (by rw [hsvc, hcontent, hd])
  refine ⟨t.withDp { t.dp with fsm := .wait, pkt := [] }, ?_, hids⟩
  rw [step_placePacket svc content s hlen, hfinal]
  rfl

/-- Settles O32: the placed edge ends the packet, whose content is the one the word stands for. -/
theorem placedWordIsRunNext : Obligations.PlacedWordIsRunNext := by
  intro s nbits w i hbits hword
  obtain ⟨h, hd⟩ := decodeTableWord_eq_some hword
  have hlen : (tableContent nbits w).2.length ≤ 15 := (length_tableContent_le hbits w).trans (Nat.le_add_right 13 2)
  exact step_placePacket_ids s hlen hd

end Sys2Proof.Machine
end

section
/-! What a step adds to the stream: nothing unless it processes an edge, and then what the framer's rule for a bit, or the
class of the window, says (10_state.md R21, 41_framer.md R140 to R155). -/

namespace Sys2Proof.Machine

/-! ### Steps that process no edge -/

/-- An interaction that is no edge adds nothing to the stream, and leaves the datapath or resets it. -/
theorem Turn.of_no_edge {a : HostAct} {s t : State} (h : Turn a s t) (ha : ∀ ts level, a ≠ .edge ts level) :
    (t.dp = s.dp ∨ t.dp = Datapath.reset) ∧ ∀ r ∈ t.stream, r ∈ s.stream := by
  have hcleared {r : Record} {u : State} (hr : r ∈ u.stream) (hq : u.outq = []) (hhost : u.host = s.host) :
      r ∈ s.stream := by
    rw [State.stream, hq, List.append_nil, hhost] at hr
    exact List.mem_append_left _ hr
  cases h with
  | unchanged => exact ⟨.inl rfl, fun _ => id⟩
  | lateEdge ts level => exact absurd rfl (ha ts level)
  | processedEdge ts level => exact absurd rfl (ha ts level)
  | accepted _ r rest hq =>
    refine ⟨.inl rfl, fun x hx => ?_⟩
    rw [State.stream, hq, List.append_cons]
    exact hx
  | read => exact ⟨.inl rfl, fun _ => id⟩
  | softReset => exact ⟨.inr rfl, fun _ hr => hcleared hr rfl rfl⟩
  | refusedStart => exact ⟨.inl rfl, fun _ => id⟩
  | started => exact ⟨.inr rfl, fun _ hr => hcleared hr rfl rfl⟩
  | configured => exact ⟨.inl rfl, fun _ => id⟩
  | hardReset => exact ⟨.inr rfl, fun _ hr => hcleared hr rfl rfl⟩

/-- Every step accepts an edge, or adds nothing to the stream and leaves the datapath or resets it. -/
theorem step_edge_or_quiet {s t : State} (h : step s = .next t) :
    (∃ ts level rest, acceptEdge ts level (s.withScript rest) = .next t) ∨
    ((t.dp = s.dp ∨ t.dp = Datapath.reset) ∧ ∀ r ∈ t.stream, r ∈ s.stream) := by
  obtain ⟨-, hwait⟩ | ⟨a, rest, -, hperf⟩ := step_cases h
  · cases hwait
    exact .inr ⟨.inl rfl, fun _ => id⟩
  by_cases ha : ∃ ts level, a = .edge ts level
  · obtain ⟨ts, level, rfl⟩ := ha
    exact .inl ⟨ts, level, rest, hperf.symm⟩
  · exact .inr ((perform_turn hperf.symm).of_no_edge fun ts level h => ha ⟨ts, level, h⟩)

/-! ### Records added -/

/-- From `s` to `t` the stream gets records at its end, all of them such. -/
def State.Adds (P : Record → Prop) (s t : State) : Prop := ∃ rs, t.stream = s.stream ++ rs ∧ ∀ r ∈ rs, P r

section
variable {P : Record → Prop} {s t u : State}

theorem State.Adds.none (h : t.stream = s.stream) : s.Adds P t := ⟨[], h.trans (List.append_nil _).symm, nofun⟩

theorem State.Adds.emit {rs : List Record} (h : ∀ r ∈ rs, P r) : s.Adds P (s.emit rs) :=
  ⟨rs, (List.append_assoc ..).symm, h⟩

theorem State.Adds.emit_one {r : Record} (h : P r) : s.Adds P (s.emit [r]) :=
  .emit (List.forall_mem_cons.2 ⟨h, nofun⟩)

/-- An update of the datapath is no part of the stream. -/
theorem State.Adds.of_withDp {d : Datapath} (h : (s.withDp d).Adds P t) : s.Adds P t := h

theorem State.Adds.emit_withDp {r : Record} (h : P r) (d : Datapath) : s.Adds P ((s.emit [r]).withDp d) := by
  rw [State.emit_withDp]
  exact .of_withDp (.emit_one h)

theorem State.Adds.resync {reason count : Word} {a b : Ts} (h : P (mkRecord kindResync a b reason count 0)) :
    s.Adds P (resync reason count a b s) :=
  .emit_withDp h _

theorem State.Adds.trans (hst : s.Adds P t) (htu : t.Adds P u) : s.Adds P u := by
  obtain ⟨rs, ht, hrs⟩ := hst
  obtain ⟨rs', hu, hrs'⟩ := htu
  refine ⟨rs ++ rs', ?_, fun r hr => (List.mem_append.1 hr).elim (hrs r) (hrs' r)⟩
  rw [hu, ht, List.append_assoc]

/-- A stream of such records stays one. -/
theorem State.Adds.keeps (h : s.Adds P t) (hs : ∀ r ∈ s.stream, P r) : ∀ r ∈ t.stream, P r := by
  obtain ⟨rs, ht, hrs⟩ := h
  rw [ht]
  exact fun r hr => (List.mem_append.1 hr).elim (hs r) (hrs r)

end

/-! ### Everything the framer can do with a bit -/

/-- The state whose packet a packet end bit finalises: the byte just completed is in the buffer. -/
def State.withByte (s : State) : State := s.withDp { s.dp with pkt := pktWithByte s.dp }

/-- `FrameStep bit t1 t3 s t`: the framer's transition for a bit `[t1, t3]` from `s`, its BIT record emitted, leads to
`t`. One constructor for each rule (41_framer.md R146 to R155). -/
inductive FrameStep (bit : Bool) (t1 t3 : Ts) (s : State) : State → Prop where
  | idle : s.dp.fsm = .wait → FrameStep bit t1 t3 s s
  | preamble : s.dp.fsm = .wait → FrameStep bit t1 t3 s (s.withDp { s.dp with fsm := .pre, preCnt := 1, preStart := t1 })
  | count : s.dp.fsm = .pre → FrameStep bit t1 t3 s (s.withDp { s.dp with preCnt := sat 16 (s.dp.preCnt.toNat + 1) })
  | start : s.dp.fsm = .pre → 10 ≤ s.dp.preCnt.toNat → FrameStep bit t1 t3 s
      ((s.emit [mkRecord kindPreamble s.dp.preStart t3 (arg s.dp.preCnt) 0 0]).withDp
        { s.dp with fsm := .data, bitcnt := 0, acc := 0, pkt := [] })
  | shortPreamble : s.dp.fsm = .pre → s.dp.preCnt.toNat < 10 → FrameStep bit t1 t3 s
      (resync reasonShortPreamble (arg s.dp.preCnt) s.dp.preStart t3 s)
  | data : s.dp.fsm = .data → s.dp.bitcnt < 8 → FrameStep bit t1 t3 s (s.withDp (dataBit bit t1 t3 s.dp))
  | tooLong : s.dp.fsm = .data → FrameStep bit t1 t3 s
      (resync reasonTooLong (argNat Config.maxPkt) (byteStartAt s.dp.pkt 0) t3 s)
  | nextByte : s.dp.fsm = .data → 8 ≤ s.dp.bitcnt → s.dp.pkt.length < 16 → FrameStep bit t1 t3 s
      (s.withDp { s.dp with pkt := pktWithByte s.dp, bitcnt := 0, acc := 0 })
  | packetEnd (rs : List Record) : s.dp.fsm = .data → 8 ≤ s.dp.bitcnt → s.dp.pkt.length < 16 →
      decodeAndRun s.withByte = .next ((s.withByte.emit rs).withCur Cursor.idle) →
      FrameStep bit t1 t3 s
        (((s.emit (byteRecords 0 (pktWithByte s.dp) ++ rs ++
            [checksumRecord (pktWithByte s.dp), ⟨8, t1, t3, 0, 0, 0, 0⟩])).withCur Cursor.idle).withDp
          { s.dp with fsm := .wait, pkt := [] })

theorem frameBit_frameStep {bit : Bool} {t1 t3 : Ts} {s t : State} (h : frameBit bit t1 t3 s = .next t) :
    FrameStep bit t1 t3 s t := by
  unfold frameBit at h
  split at h
  next hfsm =>
    cases h
    unfold bitInWait
    split
    · exact .preamble hfsm
    · exact .idle hfsm
  next hfsm =>
    cases h
    unfold bitInPre
    split
    · exact .count hfsm
    split
    next hcount => exact .start hfsm hcount
    next hcount => exact .shortPreamble hfsm (Nat.not_le.1 hcount)
  next hfsm =>
    unfold bitInData at h
    split at h
    next hroom =>
      cases h
      exact .data hfsm hroom
    next hfull =>
      unfold markerBit at h
      split at h
      next =>
        cases h
        exact .tooLong hfsm
      next hlen =>
        split at h
        next =>
          obtain ⟨fs, hdecode, hfinal⟩ := finalise_fields t1 t3 s.withByte
          rw [State.withByte] at hfinal
          rw [hfinal] at h
          cases h
          exact .packetEnd _ hfsm (Nat.not_lt.1 hfull) (Nat.not_le.1 hlen) hdecode
        next =>
          cases h
          exact .nextByte hfsm (Nat.not_lt.1 hfull) (Nat.not_le.1 hlen)

end Sys2Proof.Machine
end

section
/-! The records of a decoded packet: the decoder's header and rejection are ones the rules give, so that every FIELD
record is legal and, over bytes in order, starts no later than it ends (30_encoding.md R96 to R98). -/

namespace Sys2Proof.Machine

/-! ### What the decoder answers -/

/-- An address that its bytes can hold (42_dispatch.md R187, R189, R190). -/
def headerLegal : Header → Prop
  | .bare => True
  | .broadcast => True
  | .mf7 a => 1 ≤ a.toNat
  | .mf14 hi _ => hi.toNat ≤ 39
  | .reserved a => 232 ≤ a.toNat ∧ a.toNat ≤ 254
  | .idleSystem => True
  | .accPom _ _ _ _ => True
  | .accExtPom _ _ _ => True

/-- A rejection of a content of at least one byte: a byte is missing only after the first (42_dispatch.md R182). -/
def rejectLegal : Reject → Prop
  | .unknown _ _ => True
  | .missing pos => 1 ≤ pos ∧ pos ≤ 3
  | .reservedAddress => True

/-- What the decoder can answer on `content`. -/
structure PacketSound (content : List Byte) (p : Packet) : Prop where
  size_le : p.header.size ≤ content.length
  header_legal : headerLegal p.header
  reject_legal : ∀ r, p.body = .reject r → rejectLegal r

theorem decodeMf_reject_legal {pos : Nat} {other : Bool} {bytes : List Byte} {r : Reject} (h1 : 1 ≤ pos) (h2 : pos ≤ 2)
    (h : decodeMf pos other bytes = .reject r) : rejectLegal r := by
  cases bytes with
  | nil =>
    cases h
    exact ⟨h1, h2.trans (Nat.le_succ 2)⟩
  | cons op ops =>
    have hread := decodeMf_readsBack pos other op ops
    rw [h] at hread
    cases hread with
    | reject hr =>
      obtain ⟨rfl, -⟩ | ⟨rfl, -, -⟩ := hr
      · trivial
      · exact ⟨Nat.succ_le_succ (Nat.zero_le _), Nat.succ_le_succ h2⟩

theorem decodeCvAccess_reject_legal {pos : Nat} {other : Bool} {op : Byte} {ops : List Byte} {r : Reject}
    (hop : cvShaped op = true) (h : decodeCvAccess pos other op ops = .reject r) : rejectLegal r := by
  have hread := decodeCvAccess_readsBack pos other op ops hop
  rw [h] at hread
  cases hread with
  | reject hr =>
    obtain ⟨rfl, -⟩ := hr
    trivial

theorem decodeService_reject_legal {a : Byte} {rest : List Byte} {r : Reject} (h : decodeService a rest = .reject r) :
    rejectLegal r := by
  unfold decodeService at h
  split at h
  · split_ifs at h
    cases h
    trivial
  · split_ifs at h
  · cases h
    trivial

theorem decodeAccessory_sound (a : Byte) (rest : List Byte) : PacketSound (a :: rest) (decodeAccessory a rest) := by
  have hbare {b : Body} (hb : ∀ r, b = .reject r → rejectLegal r) : PacketSound (a :: rest) ⟨.bare, b⟩ :=
    ⟨Nat.zero_le _, trivial, hb⟩
  cases rest with
  | nil =>
    refine hbare fun r h => ?_
    cases h
    exact ⟨Nat.le_refl 1, Nat.le_add_left 1 2⟩
  | cons b ops =>
    have hsize : 2 ≤ (a :: b :: ops).length := Nat.le_add_left 2 _
    by_cases h7 : b.extractLsb' 7 1 = 1#1
    · by_cases hshape : ops.head?.any cvShaped = true
      · cases ops with
        | nil => cases hshape
        | cons op more =>
          rw [decodeAccessory_pom h7 hshape]
          exact ⟨hsize, trivial, fun r => decodeCvAccess_reject_legal hshape⟩
      · rw [decodeAccessory_basic h7 hshape]
        exact hbare nofun
    by_cases h3 : b.extractLsb' 3 1 = 1#1
    · rw [decodeAccessory_nop h7 h3]
      exact hbare nofun
    by_cases h0 : b.extractLsb' 0 1 = 1#1
    · by_cases hshape : 2 ≤ ops.length ∧ ops.head?.any cvShaped = true
      · obtain ⟨hlen, hshaped⟩ := hshape
        cases ops with
        | nil => cases hshaped
        | cons op more =>
          have hmore : more ≠ [] := by
            rintro rfl
            exact Nat.not_succ_le_self 1 hlen
          rw [decodeAccessory_extendedPom h7 h3 h0 hshaped hmore]
          exact ⟨hsize, trivial, fun r => decodeCvAccess_reject_legal hshaped⟩
      · rw [decodeAccessory_extended h7 h3 h0 hshape]
        exact hbare nofun
    · rw [decodeAccessory_reserved h7 h3 h0]
      refine hbare fun r h => ?_
      cases h
      trivial

/-- On a content of at least one byte, as every packet has (42_dispatch.md R180). -/
theorem decodePacket_sound (svc : Bool) {content : List Byte} (hne : content ≠ []) :
    PacketSound content (decodePacket svc content) := by
  obtain ⟨a, rest, rfl⟩ := List.exists_cons_of_ne_nil hne
  have hlt := a.isLt
  have hone : 1 ≤ (a :: rest).length := Nat.le_add_left 1 _
  unfold decodePacket
  dsimp only
  split_ifs with h0 h128 hsvc h192 h232 h255
  · exact ⟨hone, trivial, fun r => decodeMf_reject_legal (Nat.le_refl 1) (Nat.le_succ 1)⟩
  · exact ⟨Nat.zero_le _, trivial, fun r => decodeService_reject_legal⟩
  · refine ⟨hone, ?_, fun r => decodeMf_reject_legal (Nat.le_refl 1) (Nat.le_succ 1)⟩
    rw [headerLegal, toNat_lowBits a 7]
    omega
  · exact decodeAccessory_sound a rest
  · cases rest with
    | nil =>
      refine ⟨Nat.zero_le _, trivial, fun r h => ?_⟩
      cases h
      exact ⟨Nat.le_refl 1, Nat.le_add_left 1 2⟩
    | cons b more =>
      refine ⟨Nat.le_add_left 2 _, ?_, fun r => decodeMf_reject_legal (Nat.le_succ 1) (Nat.le_refl 2)⟩
      rw [headerLegal, toNat_lowBits a 6]
      omega
  · refine ⟨hone, ⟨by omega, by omega⟩, fun r h => ?_⟩
    cases h
    trivial
  · cases rest with
    | nil =>
      refine ⟨hone, trivial, fun r h => ?_⟩
      cases h
      exact ⟨Nat.le_refl 1, Nat.le_add_left 1 2⟩
    | cons b more => exact ⟨Nat.zero_le _, trivial, nofun⟩

/-! ### The fields of a packet -/

theorem toNat_arg {n : Nat} (v : BitVec n) (hn : n ≤ 32) : (arg v).toNat = v.toNat := by
  rw [arg, BitVec.toNat_setWidth]
  exact Nat.mod_eq_of_lt (v.isLt.trans_le (Nat.pow_le_pow_right (Nat.zero_lt_succ 1) hn))

theorem headerFields_legal {h : Header} (hh : headerLegal h) (accOffset : BitVec 16) :
    allLegal (headerFields h accOffset) := by
  cases h with
  | bare => exact allLegal_nil
  | broadcast => exact allLegal_cons ⟨rfl, .inl ⟨rfl, rfl⟩⟩ allLegal_nil
  | mf7 a =>
    have ha := a.isLt
    refine allLegal_cons ⟨rfl, .inr (.inl ⟨rfl, ?_⟩)⟩ allLegal_nil
    rw [addrField, toNat_arg a (by omega)]
    exact ⟨hh, by omega⟩
  | mf14 hi lo =>
    have hh : hi.toNat ≤ 39 := hh
    have hlo := lo.isLt
    refine allLegal_cons ⟨rfl, .inr (.inr (.inl ⟨rfl, ?_⟩))⟩ allLegal_nil
    rw [addrField, toNat_arg _ (by omega), toNat_append_eq_add]
    omega
  | reserved a =>
    refine allLegal_cons ⟨rfl, .inr (.inr (.inr (.inl ⟨rfl, ?_⟩)))⟩ allLegal_nil
    rw [addrField, toNat_arg a (by omega)]
    exact hh
  | idleSystem => exact allLegal_cons ⟨rfl, .inr (.inr (.inr (.inr ⟨rfl, rfl⟩)))⟩ allLegal_nil
  | accPom lo hi c ddd =>
    exact allLegal_cons ⟨arg_le _ (Nat.le_refl _), rfl, rfl⟩
      (allLegal_cons ⟨arg_le _ (Nat.le_refl _), arg_le _ (Nat.le_refl _), rfl⟩ allLegal_nil)
  | accExtPom lo hi port => exact allLegal_cons (accExtAddr_legal lo hi port accOffset) allLegal_nil

theorem rejectFields_legal {r : Reject} (hr : rejectLegal r) (content : List Byte) :
    allLegal (rejectFields r content) := by
  cases r with
  | unknown pos other => exact unknownFrom_legal _ _ _
  | missing pos =>
    obtain ⟨h1, h3⟩ := hr
    exact allLegal_cons (missing_legal h1 (by omega)) allLegal_nil
  | reservedAddress => exact allLegal_nil

/-- The cursor after a header is within a packet's first bytes, with an address a header can hold. -/
theorem headerCursor_legal {h : Header} (hh : headerLegal h) :
    (headerCursor h).pos ≤ 2 ∧ (headerCursor h).addr.toNat ≤ 10239 := by
  cases h with
  | mf7 a =>
    have ha := a.isLt
    refine ⟨Nat.le_succ 1, ?_⟩
    rw [headerCursor, BitVec.toNat_setWidth]
    omega
  | mf14 hi lo =>
    have hh : hi.toNat ≤ 39 := hh
    have hlo := lo.isLt
    refine ⟨Nat.le_refl 2, ?_⟩
    rw [headerCursor, toNat_append_eq_add]
    omega
  | bare | broadcast | reserved _ | idleSystem | accPom _ _ _ _ | accExtPom _ _ _ =>
    exact ⟨Nat.le_of_ble_eq_true rfl, Nat.zero_le _⟩

theorem runBody_legal {b : Body} (hb : ∀ r, b = .reject r → rejectLegal r) (content : List Byte) {s : State}
    (hpos : s.cur.pos ≤ 2) (haddr : s.cur.addr.toNat ≤ 10239) :
    ∃ fs : List Field, runBody b content s = .next (s.emitFields fs) ∧ allLegal fs := by
  cases b with
  | instr i => exact exec_legal i hpos haddr
  | reject r => exact ⟨_, rfl, rejectFields_legal (hb r rfl) content⟩

theorem Field.Spans.mono {m n : Nat} (h : m ≤ n) {f : Field} (hf : f.Spans m) : f.Spans n :=
  hf.imp_right fun ⟨hle, hlt⟩ => ⟨hle, hlt.trans_le h⟩

theorem perByte_spans {mk : Nat → Byte → Field} (h : ∀ k d, (mk k d).first = (mk k d).last) (n pos : Nat)
    (bytes : List Byte) : ∀ f ∈ perByte mk pos bytes, f.Spans n := by
  induction bytes generalizing pos with
  | nil => nofun
  | cons d rest ih => exact List.forall_mem_cons.2 ⟨.inl (h pos d), ih (pos + 1)⟩

theorem rejectFields_spans (r : Reject) (content : List Byte) (n : Nat) :
    ∀ f ∈ rejectFields r content, f.Spans n := by
  cases r with
  | unknown pos other => exact perByte_spans (fun _ _ => rfl) _ _ _
  | missing pos => exact List.forall_mem_cons.2 ⟨.inl rfl, nofun⟩
  | reservedAddress => nofun

theorem runBody_spans {b : Body} (content : List Byte) {s : State} {n : Nat}
    (hb : ∀ i, b = .instr i → s.cur.pos + i.size ≤ n) :
    ∃ fs : List Field, runBody b content s = .next (s.emitFields fs) ∧ ∀ f ∈ fs, f.Spans n := by
  cases b with
  | instr i =>
    obtain ⟨fs, hexec, hreport⟩ := exec_report i s
    exact ⟨fs, hexec, fun f hf => (hreport.spans f hf).mono (hb i rfl)⟩
  | reject r => exact ⟨_, rfl, rejectFields_spans r content n⟩

/-- The records of the decoder engine are those of the header's fields and of what is run after it. -/
theorem decodeAndRun_records {s : State} {rs : List Record} {fs : List Field}
    (hdecode : decodeAndRun s = .next ((s.emit rs).withCur Cursor.idle))
    (hrun : let p := decodePacket s.serviceMode (specContent s.dp.pkt)
      let u := (s.emitFields (headerFields p.header s.accOffset)).withCur (headerCursor p.header)
      runBody p.body (specContent s.dp.pkt) u = .next (u.emitFields fs)) :
    rs = (headerFields (decodePacket s.serviceMode (specContent s.dp.pkt)).header s.accOffset ++ fs).map
      (fieldRecord s.dp.pkt) := by
  unfold decodeAndRun at hdecode
  dsimp only at hdecode hrun
  rw [contentBytes_eq_specContent, hrun, andThen_next] at hdecode
  have hq := congrArg State.outq (Host.Outcome.next.inj hdecode)
  simp only [State.withCur_outq, State.emitFields_outq, State.withCur_dp, State.emitFields_dp, State.emit_outq,
    List.append_assoc, List.append_cancel_left_eq] at hq
  rw [← hq, List.map_append]

theorem specContent_ne_nil {pkt : List PktByte} (h : pkt ≠ []) : specContent pkt ≠ [] := by
  match pkt with
  | [] => exact absurd rfl h
  | [b] => nofun
  | a :: b :: rest => nofun

theorem length_specContent_le (pkt : List PktByte) : (specContent pkt).length ≤ pkt.length := by
  rw [← contentBytes_eq_specContent, contentBytes, List.length_map]
  split
  · rw [List.length_dropLast]
    exact Nat.sub_le _ _
  · exact Nat.le_refl _

/-- The FIELD records of a packet are legal. -/
theorem decodeAndRun_legal {s : State} {rs : List Record} (hpkt : s.dp.pkt ≠ [])
    (hdecode : decodeAndRun s = .next ((s.emit rs).withCur Cursor.idle)) : ∀ r ∈ rs, r.legal := by
  obtain ⟨-, hheader, hreject⟩ := decodePacket_sound s.serviceMode (specContent_ne_nil hpkt)
  obtain ⟨hpos, haddr⟩ := headerCursor_legal hheader
  obtain ⟨fs, hrun, hlegal⟩ := runBody_legal hreject (specContent s.dp.pkt)
    (s := (s.emitFields (headerFields _ s.accOffset)).withCur (headerCursor _)) hpos haddr
  rw [decodeAndRun_records hdecode hrun]
  intro r hr
  obtain ⟨f, hf, rfl⟩ := List.mem_map.1 hr
  exact fieldRecord_legal _ (allLegal_append (headerFields_legal hheader _) hlegal f hf)

/-! ### Ranges over bytes in order -/

section
variable {pkt : List PktByte} (horder : inOrder pkt)
include horder

theorem inOrder_range {i j : Nat} (hij : i ≤ j) (hj : j < pkt.length) : byteStartAt pkt i ≤ byteEndAt pkt j := by
  obtain ⟨hbytes, hpairs⟩ := horder
  have hi : i < pkt.length := hij.trans_lt hj
  rw [byteStartAt, byteEndAt, List.getElem?_eq_getElem hi, List.getElem?_eq_getElem hj]
  have hle := hbytes _ (List.getElem_mem hi)
  obtain rfl | hlt := Nat.eq_or_lt_of_le hij
  · exact hle
  · have hnext := List.pairwise_iff_getElem.1 hpairs i j hi hj hlt
    exact BitVec.le_trans hle (BitVec.le_trans hnext (hbytes _ (List.getElem_mem hj)))

/-- A byte's range is ordered; an index beyond the buffer reads sample 0 twice (log entry 7). -/
theorem inOrder_byte (k : Nat) : byteStartAt pkt k ≤ byteEndAt pkt k := by
  by_cases hk : k < pkt.length
  · exact inOrder_range horder (Nat.le_refl k) hk
  · rw [byteStartAt, byteEndAt, List.getElem?_eq_none (Nat.not_lt.1 hk)]
    exact BitVec.le_refl _

theorem fieldRecord_ordered {f : Field} (hf : f.Spans pkt.length) :
    (fieldRecord pkt f).start ≤ (fieldRecord pkt f).stop := by
  obtain hone | ⟨hle, hlt⟩ := hf
  · rw [fieldRecord, hone]
    exact inOrder_byte horder _
  · exact inOrder_range horder hle hlt

end

/-- An instruction that the decoder reads takes up the content from its cursor on. -/
theorem cursorPos_add_size {svc : Bool} {content : List Byte} {i : Instr}
    (hi : (decodePacket svc content).body = .instr i) :
    (headerCursor (decodePacket svc content).header).pos + i.size = content.length := by
  have hpacket : PacketEncodes svc content (decodePacket svc content).header i := decodePacket_encodes (by rw [← hi])
  rw [headerCursor_eq, specCursor_pos, length_encodeHeader, hpacket.size_eq]

/-- The FIELD records of a packet whose bytes are in order start no later than they end. -/
theorem decodeAndRun_ordered {s : State} {rs : List Record} (hpkt : s.dp.pkt ≠ []) (horder : inOrder s.dp.pkt)
    (hdecode : decodeAndRun s = .next ((s.emit rs).withCur Cursor.idle)) : ∀ r ∈ rs, r.start ≤ r.stop := by
  have hsound := decodePacket_sound s.serviceMode (specContent_ne_nil hpkt)
  have hcontent := length_specContent_le s.dp.pkt
  obtain ⟨fs, hrun, hspans⟩ := runBody_spans (specContent s.dp.pkt)
    (s := (s.emitFields (headerFields _ s.accOffset)).withCur (headerCursor _))
    fun i hi => (cursorPos_add_size hi).trans_le hcontent
  rw [decodeAndRun_records hdecode hrun]
  intro r hr
  obtain ⟨f, hf, rfl⟩ := List.mem_map.1 hr
  refine fieldRecord_ordered horder ((List.mem_append.1 hf).elim (fun hf => ?_) (hspans f))
  exact (headerFields_plain _ _ (hsound.size_le.trans hcontent) f hf).spans

end Sys2Proof.Machine
end

section
/-! Every record is one the format admits (30_encoding.md R96 to R104): the records of the framer's rules, of a window's
class, of an edge, and so of a step. -/

namespace Sys2Proof.Machine

/-! ### The records around the fields -/

theorem bitRecord_legal {bit stretched : Bool} (h : bit = true → stretched = false) (t1 t3 : Ts) (short : Word) :
    (mkRecord kindBit t1 t3 (if bit then 1 else 0) (if stretched then 1 else 0) short).legal := by
  cases bit with
  | true =>
    rw [h rfl]
    exact ⟨Nat.le_refl 1, Nat.zero_le 1, fun _ => rfl, rfl⟩
  | false =>
    have hzero : (0 : Word) ≠ 1 := bne_iff_ne.1 rfl
    cases stretched with
    | true => exact ⟨Nat.zero_le 1, Nat.le_refl 1, fun h => absurd h hzero, rfl⟩
    | false => exact ⟨Nat.zero_le 1, Nat.zero_le 1, fun h => absurd h hzero, rfl⟩

theorem byteRecords_legal {i : Nat} {pkt : List PktByte} (h : i + pkt.length ≤ 16) :
    ∀ r ∈ byteRecords i pkt, r.legal := by
  induction pkt generalizing i with
  | nil => nofun
  | cons b rest ih =>
    rw [List.length_cons] at h
    have hi : (argNat i).toNat = i := by
      rw [argNat, BitVec.toNat_ofNat]
      exact Nat.mod_eq_of_lt (by omega)
    have hindex : (argNat i).toNat ≤ 15 := by omega
    exact List.forall_mem_cons.2 ⟨⟨byte_le b.val, hindex, rfl, rfl⟩, ih (by omega)⟩

/-- The verdict agrees with the two sums (41_framer.md R157, R158). -/
theorem checksum_cases (bytes : List Byte) :
    checksum bytes = (verdictMissing, 0, 0) ∨
    ∃ computed received, checksum bytes =
      (if computed = received then verdictOk else verdictFail, computed, received) := by
  match bytes with
  | [] => exact .inl rfl
  | [_] => exact .inl rfl
  | a :: b :: rest => exact .inr ⟨_, _, rfl⟩

theorem arg_byte_inj {a b : Byte} (h : arg a = arg b) : a = b := by
  have hnum := congrArg BitVec.toNat h
  rw [toNat_arg a (Nat.le_add_left 8 24), toNat_arg b (Nat.le_add_left 8 24)] at hnum
  exact BitVec.eq_of_toNat_eq hnum

theorem checksumRecord_legal (pkt : List PktByte) : (checksumRecord pkt).legal := by
  unfold checksumRecord
  obtain h | ⟨computed, received, h⟩ := checksum_cases (pkt.map PktByte.val)
  · rw [h]
    exact ⟨Nat.zero_le _, Nat.zero_le _, rfl, .inr (.inr ⟨rfl, rfl, rfl⟩)⟩
  · rw [h]
    by_cases hsum : computed = received
    · rw [if_pos hsum]
      exact ⟨byte_le _, byte_le _, rfl, .inl ⟨rfl, congrArg arg hsum⟩⟩
    · rw [if_neg hsum]
      exact ⟨byte_le _, byte_le _, rfl, .inr (.inl ⟨rfl, fun h => hsum (arg_byte_inj h)⟩)⟩

/-! ### The framer -/

theorem State.stream_withDp (s : State) (d : Datapath) : (s.withDp d).stream = s.stream := rfl

/-- The records of a bit, after its BIT record, are legal from a state within the framer's bounds. -/
theorem FrameStep.adds_legal {bit : Bool} {t1 t3 : Ts} {s t : State} (h : FrameStep bit t1 t3 s t)
    (hb : s.dp.Bounded) : s.Adds Record.legal t := by
  have hnum : (arg s.dp.preCnt).toNat = s.dp.preCnt.toNat := toNat_arg _ (Nat.le_add_left 16 16)
  cases h with
  | idle | preamble | count | data | nextByte => exact .none rfl
  | start hfsm hcount =>
    have hlt := s.dp.preCnt.isLt
    exact .emit_withDp ⟨hnum ▸ hcount, by rw [mkRecord, hnum]; omega, rfl, rfl, rfl⟩ _
  | shortPreamble hfsm hcount =>
    have hpos := hb.preamble hfsm
    exact .resync ⟨.inr (.inl ⟨rfl, by rw [mkRecord, hnum]; omega⟩), rfl, rfl⟩
  | tooLong => exact .resync ⟨.inr (.inr ⟨rfl, rfl⟩), rfl, rfl⟩
  | packetEnd rs hfsm hfull hlen hdecode =>
    have hpkt : (pktWithByte s.dp).length ≤ 16 := by
      rw [pktWithByte, List.length_append]
      exact hlen
    have hne : pktWithByte s.dp ≠ [] := List.append_ne_nil_of_right_ne_nil _ (List.cons_ne_nil _ _)
    have hfields : ∀ r ∈ rs, r.legal := decodeAndRun_legal (s := s.withByte) hne hdecode
    refine (State.Adds.emit fun r hr => ?_).trans (.none rfl)
    rw [List.mem_append, List.mem_append] at hr
    obtain (hr | hr) | hr := hr
    · exact byteRecords_legal ((Nat.zero_add _).trans_le hpkt) r hr
    · exact hfields r hr
    · revert r
      exact List.forall_mem_cons.2
        ⟨checksumRecord_legal _, List.forall_mem_cons.2 ⟨⟨rfl, rfl, rfl, rfl⟩, nofun⟩⟩

theorem emitBit_adds_legal {bit stretched : Bool} (h : bit = true → stretched = false) (t1 t3 : Ts) (s : State) :
    s.Adds Record.legal (emitBit bit stretched t1 t3 s) :=
  .emit_withDp (bitRecord_legal h t1 t3 _) _

theorem framer_adds_legal {c : WindowClass} {stretched : Bool} {t1 t3 : Ts} {s t : State}
    (hc : c = .one → stretched = false) (hb : s.dp.Bounded) (h : framer c stretched t1 t3 s = .next t) :
    s.Adds Record.legal t := by
  have hbit (bit : Bool) : (emitBit bit stretched t1 t3 s).dp.Bounded := (emitBit_processes ..).bounded hb
  cases c with
  | one =>
    exact (emitBit_adds_legal (fun _ => hc rfl) t1 t3 s).trans ((frameBit_frameStep h).adds_legal (hbit true))
  | zero => exact (emitBit_adds_legal (bit := false) nofun t1 t3 s).trans ((frameBit_frameStep h).adds_legal (hbit false))
  | straddle =>
    cases h
    exact .resync ⟨.inl ⟨.inr rfl, rfl⟩, rfl, rfl⟩
  | railcom =>
    cases h
    exact .emit_one ⟨rfl, rfl, rfl, rfl⟩
  | unknown =>
    cases h
    exact .resync ⟨.inl ⟨.inl rfl, rfl⟩, rfl, rfl⟩

/-! ### An edge -/

theorem deliver_adds_legal {ts : Ts} {level : Bool} {s t : State} (hb : s.dp.Bounded)
    (h : deliver ts level s = .next t) : s.Adds Record.legal t := by
  cases hphase : s.dp.phase with
  | start =>
    by_cases hlevel : level = s.dp.pol
    · rw [deliver_awaited ts hphase hlevel] at h
      cases h
      exact .none rfl
    · rw [deliver_ignored ts hphase hlevel] at h
      cases h
      exact .none rfl
  | mid =>
    rw [deliver_second ts hphase] at h
    cases h
    exact .none rfl
  | stop =>
    rw [deliver_third ts hphase] at h
    have hadvanced := (advanceWindow_processes (classify s s.dp.t1 s.dp.t2 ts).1 ts level s).bounded hb
    exact .of_withDp (framer_adds_legal classify_one_not_stretched hadvanced h)

theorem filterEdge_adds_legal {ts : Ts} {level : Bool} {s t : State} (hb : s.dp.Bounded)
    (h : filterEdge ts level s = .next t) : s.Adds Record.legal t := by
  cases hheld : s.dp.pendValid with
  | false =>
    rw [filterEdge_holds level hheld] at h
    cases h
    exact .none rfl
  | true =>
    cases hshort : isShort s (ts.toNat - s.dp.pendTs.toNat) with
    | true =>
      rw [filterEdge_deletes level hheld hshort] at h
      cases h
      exact .none rfl
    | false =>
      rw [filterEdge_delivers level hheld hshort] at h
      have hnewer : (s.withDp { s.dp with pendTs := ts, pendLevel := level }).dp.Bounded :=
        Datapath.Bounded.congr (d := s.dp) rfl hb
      exact .of_withDp (deliver_adds_legal hnewer h)

theorem acceptEdge_adds_legal {ts : Ts} {level : Bool} {s t : State} (hb : s.dp.Bounded)
    (h : acceptEdge ts level s = .next t) : s.Adds Record.legal t := by
  unfold acceptEdge at h
  split at h
  · cases h
    exact .none rfl
  split at h
  · cases h
    exact .none rfl
  dsimp only at h
  have hseen : (s.withDp { s.dp with lastValid := true, lastTs := ts }).dp.Bounded :=
    Datapath.Bounded.congr (d := s.dp) rfl hb
  split at h
  · exact .of_withDp (filterEdge_adds_legal hseen h)
  · exact .of_withDp (deliver_adds_legal hseen h)

/-- Settles O59: only an accepted edge adds records, and those it adds are legal. -/
theorem stepKeepsRecordsLegal : Obligations.StepKeepsRecordsLegal := by
  intro s t hf hlegal hstep
  obtain ⟨hbounded, -⟩ := (State.framed_iff s).1 hf
  obtain ⟨ts, level, rest, hedge⟩ | ⟨-, hquiet⟩ := step_edge_or_quiet hstep
  · exact (acceptEdge_adds_legal (s := s.withScript rest) hbounded hedge).keeps hlegal
  · exact fun r hr => hlegal r (hquiet r hr)

end Sys2Proof.Machine
end

section
/-! Time in the datapath: the sample indices that the window and the framer hold are earlier than the edge a step
delivers, and stay in order when it has been delivered, so that every record starts no later than it ends (20_memory.md
R68, 30_encoding.md R96, 40_classifier.md R110). -/

namespace Sys2Proof.Machine

/-! ### The parts of `Datapath.Timed` -/

/-- The edges the window holds are all in `P`, and in order. -/
structure Datapath.WindowTimed (P : Ts → Prop) (d : Datapath) : Prop where
  first : d.phase ≠ .start → P d.t1
  second : d.phase = .stop → d.t1 < d.t2 ∧ P d.t2

/-- The sample indices the framer holds are all in `Q`, and its bytes are in order. -/
structure Datapath.FramerTimed (Q : Ts → Prop) (d : Datapath) : Prop where
  preamble : d.fsm = .pre → Q d.preStart
  order : d.fsm = .data → inOrder d.pkt
  bytes : d.fsm = .data → ∀ b ∈ d.pkt, Q b.stop
  begun : d.fsm = .data → 1 ≤ d.bitcnt → Q d.byteStart ∧ ∀ b ∈ d.pkt, b.stop ≤ d.byteStart
  complete : d.fsm = .data → d.bitcnt = 8 → d.byteStart ≤ d.byteEnd ∧ Q d.byteEnd

/-- `x` is in `P`, and not after the first edge of the window in progress. -/
def Datapath.framedIn (P : Ts → Prop) (d : Datapath) (x : Ts) : Prop := P x ∧ (d.phase ≠ .start → x ≤ d.t1)

/-- All the sample indices of window and framer are in `P`, and in order. -/
structure Datapath.EdgeTimed (P : Ts → Prop) (d : Datapath) : Prop where
  window : d.WindowTimed P
  framer : d.FramerTimed (d.framedIn P)

theorem Datapath.timed_iff (d : Datapath) :
    d.Timed ↔ (d.lastValid = false → d = Datapath.reset) ∧ (d.pendValid = true → d.pendTs ≤ d.lastTs) ∧
      d.EdgeTimed d.past := by
  constructor
  · rintro ⟨hreset, hheld, hfirst, hsecond, hpre, hdata⟩
    refine ⟨hreset, hheld, ⟨hfirst, hsecond⟩, hpre, fun h => ?_, fun h => ?_, fun h => ?_, fun h => ?_⟩
    · exact (hdata h).1
    · exact (hdata h).2.1
    · exact (hdata h).2.2.1
    · exact (hdata h).2.2.2
  · rintro ⟨hreset, hheld, hwindow, hframer⟩
    exact ⟨hreset, hheld, hwindow.first, hwindow.second, hframer.preamble, fun h =>
      ⟨hframer.order h, hframer.bytes h, hframer.begun h, hframer.complete h⟩⟩

section
variable {P Q : Ts → Prop} {d e : Datapath}

theorem Datapath.FramerTimed.mono (h : ∀ x, P x → Q x) (hd : d.FramerTimed P) : d.FramerTimed Q where
  preamble hfsm := h _ (hd.preamble hfsm)
  order := hd.order
  bytes hfsm b hb := h _ (hd.bytes hfsm b hb)
  begun hfsm hbit := (hd.begun hfsm hbit).imp_left (h _)
  complete hfsm hbit := (hd.complete hfsm hbit).imp_right (h _)

/-- The framer's registers with a sample index, and those that say which of them count. -/
def Datapath.framerPart (d : Datapath) : Fsm × Ts × Nat × Ts × Ts × List PktByte :=
  (d.fsm, d.preStart, d.bitcnt, d.byteStart, d.byteEnd, d.pkt)

theorem Datapath.FramerTimed.congr (h : e.framerPart = d.framerPart) (hd : d.FramerTimed P) : e.FramerTimed P := by
  simp only [framerPart, Prod.mk.injEq] at h
  obtain ⟨hfsm, hpre, hbit, hstart, hend, hpkt⟩ := h
  refine ⟨?_, ?_, ?_, ?_, ?_⟩
  · rw [hfsm, hpre]
    exact hd.preamble
  · rw [hfsm, hpkt]
    exact hd.order
  · rw [hfsm, hpkt]
    exact hd.bytes
  · rw [hfsm, hbit, hstart, hpkt]
    exact hd.begun
  · rw [hfsm, hbit, hstart, hend]
    exact hd.complete

theorem Datapath.FramerTimed.of_wait (h : d.fsm = .wait) : d.FramerTimed P := by
  have hpre : d.fsm ≠ .pre := by rw [h]; nofun
  have hdata : d.fsm ≠ .data := by rw [h]; nofun
  exact ⟨fun h => absurd h hpre, fun h => absurd h hdata, fun h => absurd h hdata, fun h => absurd h hdata,
    fun h => absurd h hdata⟩

theorem Datapath.EdgeTimed.mono (h : ∀ x, P x → Q x) (hd : d.EdgeTimed P) : d.EdgeTimed Q where
  window := ⟨fun hp => h _ (hd.window.first hp), fun hp => (hd.window.second hp).imp_right (h _)⟩
  framer := hd.framer.mono fun _ hx => hx.imp_left (h _)

/-- The window's registers that count. -/
def Datapath.windowPart (d : Datapath) : Phase × Ts × Ts := (d.phase, d.t1, d.t2)

theorem Datapath.EdgeTimed.congr (hw : e.windowPart = d.windowPart) (hf : e.framerPart = d.framerPart)
    (hd : d.EdgeTimed P) : e.EdgeTimed P := by
  simp only [windowPart, Prod.mk.injEq] at hw
  obtain ⟨hphase, ht1, ht2⟩ := hw
  refine ⟨⟨?_, ?_⟩, (hd.framer.congr hf).mono fun x hx => ?_⟩
  · rw [hphase, ht1]
    exact hd.window.first
  · rw [hphase, ht1, ht2]
    exact hd.window.second
  · rw [framedIn, hphase, ht1]
    exact hx

theorem Datapath.reset_edgeTimed : Datapath.reset.EdgeTimed P :=
  ⟨⟨fun h => absurd rfl h, nofun⟩, .of_wait rfl⟩

end

theorem Datapath.reset_timed : Datapath.reset.Timed :=
  (Datapath.timed_iff _).2 ⟨fun _ => rfl, nofun, reset_edgeTimed⟩

/-! ### The framer -/

/-- A record that starts no later than it ends. -/
def Record.Ordered (r : Record) : Prop := r.start ≤ r.stop

theorem byteRecords_ordered {pkt : List PktByte} (h : ∀ b ∈ pkt, b.start ≤ b.stop) (i : Nat) :
    ∀ r ∈ byteRecords i pkt, r.Ordered := by
  induction pkt generalizing i with
  | nil => nofun
  | cons b rest ih =>
    obtain ⟨hb, hrest⟩ := List.forall_mem_cons.1 h
    exact List.forall_mem_cons.2 ⟨hb, ih hrest (i + 1)⟩

section
variable {bit stretched : Bool} {t1 t3 : Ts} {s t : State}

/-- The bytes received and the one just completed are in order, all before the marker bit. -/
theorem pktWithByte_inOrder {Q : Ts → Prop} {d : Datapath} (hd : d.FramerTimed Q) (hfsm : d.fsm = .data)
    (hbit : d.bitcnt = 8) : inOrder (pktWithByte d) ∧ ∀ b ∈ pktWithByte d, Q b.stop := by
  obtain ⟨hbytes, hpairs⟩ := hd.order hfsm
  obtain ⟨-, hbefore⟩ := hd.begun hfsm (by omega)
  obtain ⟨hle, hend⟩ := hd.complete hfsm hbit
  refine ⟨⟨?_, ?_⟩, ?_⟩
  · exact List.forall_mem_append.2 ⟨hbytes, List.forall_mem_cons.2 ⟨hle, nofun⟩⟩
  · refine List.pairwise_append.2 ⟨hpairs, List.pairwise_singleton _ _, fun a ha b hb => ?_⟩
    rw [List.mem_singleton.1 hb]
    exact hbefore a ha
  · exact List.forall_mem_append.2 ⟨hd.bytes hfsm, List.forall_mem_cons.2 ⟨hend, nofun⟩⟩

/-- A bit `[t1, t3]` after all that the framer holds leaves all of it no later than `t3`. -/
theorem FrameStep.timed (h : FrameStep bit t1 t3 s t) (hb : s.dp.Bounded) (h13 : t1 ≤ t3)
    (hd : s.dp.FramerTimed (· ≤ t1)) : t.dp.FramerTimed (· ≤ t3) := by
  have hlater {x : Ts} (hx : x ≤ t1) : x ≤ t3 := BitVec.le_trans hx h13
  cases h with
  | idle => exact hd.mono fun _ => hlater
  | preamble hfsm => exact ⟨fun _ => h13, nofun, nofun, nofun, nofun⟩
  | count hfsm => exact Datapath.FramerTimed.congr (d := s.dp) rfl (hd.mono fun _ => hlater)
  | start =>
    exact ⟨nofun, fun _ => ⟨nofun, .nil⟩, fun _ => nofun, fun _ h => absurd h (Nat.not_succ_le_zero 0),
      fun _ h => absurd h.symm (Nat.succ_ne_zero 7)⟩
  | shortPreamble => exact .of_wait rfl
  | tooLong => exact .of_wait rfl
  | packetEnd => exact .of_wait rfl
  | nextByte hfsm hfull =>
    obtain ⟨horder, hends⟩ := pktWithByte_inOrder hd hfsm (Nat.le_antisymm hb.bits hfull)
    exact ⟨fun hpre => Fsm.noConfusion (hfsm.symm.trans hpre), fun _ => horder,
      fun _ b hmem => hlater (hends b hmem), fun _ h => absurd h (Nat.not_succ_le_zero 0),
      fun _ h => absurd h.symm (Nat.succ_ne_zero 7)⟩
  | data hfsm hroom =>
    have hstart : (dataBit bit t1 t3 s.dp).byteStart ≤ t1 ∧
        ∀ b ∈ s.dp.pkt, b.stop ≤ (dataBit bit t1 t3 s.dp).byteStart := by
      by_cases hcnt : s.dp.bitcnt = 0
      · have heq : (dataBit bit t1 t3 s.dp).byteStart = t1 := if_pos hcnt
        rw [heq]
        exact ⟨BitVec.le_refl _, hd.bytes hfsm⟩
      · have heq : (dataBit bit t1 t3 s.dp).byteStart = s.dp.byteStart := if_neg hcnt
        rw [heq]
        exact hd.begun hfsm (by omega)
    obtain ⟨hbegun, hbefore⟩ := hstart
    refine ⟨fun hpre => ?_, fun _ => hd.order hfsm, fun _ b hmem => hlater (hd.bytes hfsm b hmem),
      fun _ _ => ⟨hlater hbegun, hbefore⟩, fun _ hcnt => ?_⟩
    · exact Fsm.noConfusion (hfsm.symm.trans hpre)
    · have hend : (dataBit bit t1 t3 s.dp).byteEnd = t3 := if_pos hcnt
      rw [State.withDp_dp, hend]
      exact ⟨hlater hbegun, BitVec.le_refl _⟩

/-- The records of a bit, after its BIT record, start no later than they end. -/
theorem FrameStep.adds_ordered (h : FrameStep bit t1 t3 s t) (hb : s.dp.Bounded) (h13 : t1 ≤ t3)
    (hd : s.dp.FramerTimed (· ≤ t1)) : s.Adds Record.Ordered t := by
  cases h with
  | idle | preamble | count | data | nextByte => exact .none rfl
  | start hfsm => exact .emit_withDp (BitVec.le_trans (hd.preamble hfsm) h13) _
  | shortPreamble hfsm => exact .resync (BitVec.le_trans (hd.preamble hfsm) h13)
  | tooLong hfsm =>
    refine .resync ?_
    cases hpkt : s.dp.pkt with
    | nil => exact Nat.zero_le _
    | cons b rest =>
      have hmem : b ∈ s.dp.pkt := hpkt ▸ List.mem_cons_self ..
      exact BitVec.le_trans ((hd.order hfsm).1 b hmem) (BitVec.le_trans (hd.bytes hfsm b hmem) h13)
  | packetEnd rs hfsm hfull hlen hdecode =>
    obtain ⟨horder, -⟩ := pktWithByte_inOrder hd hfsm (Nat.le_antisymm hb.bits hfull)
    have hne : pktWithByte s.dp ≠ [] := List.append_ne_nil_of_right_ne_nil _ (List.cons_ne_nil _ _)
    have hfields : ∀ r ∈ rs, r.Ordered := decodeAndRun_ordered (s := s.withByte) hne horder hdecode
    refine (State.Adds.emit fun r hr => ?_).trans (.none rfl)
    rw [List.mem_append, List.mem_append] at hr
    obtain (hr | hr) | hr := hr
    · exact byteRecords_ordered horder.1 0 r hr
    · exact hfields r hr
    · revert r
      exact List.forall_mem_cons.2 ⟨inOrder_byte horder _, List.forall_mem_cons.2 ⟨h13, nofun⟩⟩

end

/-- After a window `[t1, t3]` that follows all that the framer holds, all of it is no later than `t3`, and the records
start no later than they end. -/
theorem framer_timed {c : WindowClass} {stretched : Bool} {t1 t3 : Ts} {s t : State} (hb : s.dp.Bounded) (h13 : t1 ≤ t3)
    (hd : s.dp.FramerTimed (· ≤ t1)) (h : framer c stretched t1 t3 s = .next t) :
    t.dp.FramerTimed (· ≤ t3) ∧ s.Adds Record.Ordered t := by
  have hbit (bit : Bool) (h : frameBit bit t1 t3 (emitBit bit stretched t1 t3 s) = .next t) :
      t.dp.FramerTimed (· ≤ t3) ∧ s.Adds Record.Ordered t := by
    have hstep := frameBit_frameStep h
    have hbounded := (emitBit_processes bit stretched t1 t3 s).bounded hb
    have hemit : (emitBit bit stretched t1 t3 s).dp.FramerTimed (· ≤ t1) :=
      Datapath.FramerTimed.congr (d := s.dp) rfl hd
    have hrecord : s.Adds Record.Ordered (emitBit bit stretched t1 t3 s) := .emit_withDp h13 _
    exact ⟨hstep.timed hbounded h13 hemit, hrecord.trans (hstep.adds_ordered hbounded h13 hemit)⟩
  cases c with
  | one => exact hbit true h
  | zero => exact hbit false h
  | straddle =>
    cases h
    exact ⟨.of_wait rfl, .resync h13⟩
  | railcom =>
    cases h
    exact ⟨hd.mono fun _ hx => BitVec.le_trans hx h13, .emit_one h13⟩
  | unknown =>
    cases h
    exact ⟨.of_wait rfl, .resync h13⟩

/-! ### A delivered edge -/

/-- After a classified window the next one begins with its third edge, or no window is in progress. -/
theorem advanceWindow_next (c : WindowClass) (t3 : Ts) (level : Bool) (d : Datapath) :
    ((advanceWindow c t3 level d).phase = .mid ∧ (advanceWindow c t3 level d).t1 = t3) ∨
      (advanceWindow c t3 level d).phase = .start := by
  cases c with
  | one => exact .inl ⟨rfl, rfl⟩
  | zero => exact .inl ⟨rfl, rfl⟩
  | railcom => exact .inl ⟨rfl, rfl⟩
  | straddle => exact .inr rfl
  | unknown =>
    unfold advanceWindow
    dsimp only
    split
    · exact .inl ⟨rfl, rfl⟩
    · exact .inr rfl

theorem advanceWindow_framerPart (c : WindowClass) (t3 : Ts) (level : Bool) (d : Datapath) :
    (advanceWindow c t3 level d).framerPart = d.framerPart := by
  obtain ⟨pol, phase, t1, h⟩ := advanceWindow_frame c t3 level d
  rw [h]
  rfl

/-- With a window that begins at `e`, or none in progress, all that is no later than `e` is framed. -/
theorem Datapath.edgeTimed_of_le {e : Ts} {d : Datapath} (hw : (d.phase = .mid ∧ d.t1 = e) ∨ d.phase = .start)
    (hd : d.FramerTimed (· ≤ e)) : d.EdgeTimed (· ≤ e) := by
  obtain ⟨hphase, ht1⟩ | hphase := hw
  · refine ⟨⟨fun _ => ht1 ▸ BitVec.le_refl _, fun h => ?_⟩, hd.mono fun x hx => ⟨hx, fun _ => ht1 ▸ hx⟩⟩
    exact Phase.noConfusion (hphase.symm.trans h)
  · refine ⟨⟨fun h => absurd hphase h, fun h => ?_⟩, hd.mono fun x hx => ⟨hx, fun h => absurd hphase h⟩⟩
    exact Phase.noConfusion (hphase.symm.trans h)

/-- An edge delivered after all that the datapath holds leaves it in order, and no later than the edge. -/
theorem deliver_timed {ts : Ts} {level : Bool} {s t : State} (hb : s.dp.Bounded) (hd : s.dp.EdgeTimed (· < ts))
    (h : deliver ts level s = .next t) : t.dp.EdgeTimed (· ≤ ts) ∧ s.Adds Record.Ordered t := by
  obtain ⟨hwindow, hframer⟩ := hd
  have hle : s.dp.FramerTimed (· ≤ ts) := hframer.mono fun _ hx => BitVec.le_of_lt hx.1
  cases hphase : s.dp.phase with
  | start =>
    by_cases hlevel : level = s.dp.pol
    · rw [deliver_awaited ts hphase hlevel] at h
      cases h
      exact ⟨Datapath.edgeTimed_of_le (.inl ⟨rfl, rfl⟩) (Datapath.FramerTimed.congr (d := s.dp) rfl hle), .none rfl⟩
    · rw [deliver_ignored ts hphase hlevel] at h
      cases h
      exact ⟨Datapath.edgeTimed_of_le (.inr hphase) hle, .none rfl⟩
  | mid =>
    have hbegun : s.dp.phase ≠ .start := by rw [hphase]; nofun
    rw [deliver_second ts hphase] at h
    cases h
    have hfirst := hwindow.first hbegun
    refine ⟨⟨⟨fun _ => BitVec.le_of_lt hfirst, fun _ => ⟨hfirst, BitVec.le_refl _⟩⟩, ?_⟩, .none rfl⟩
    refine Datapath.FramerTimed.congr (d := s.dp) rfl (hframer.mono fun x hx => ?_)
    exact ⟨BitVec.le_of_lt hx.1, fun _ => hx.2 hbegun⟩
  | stop =>
    have hbegun : s.dp.phase ≠ .start := by rw [hphase]; nofun
    rw [deliver_third ts hphase] at h
    have hadvanced := (advanceWindow_processes (classify s s.dp.t1 s.dp.t2 ts).1 ts level s).bounded hb
    have hbefore : (s.withDp (advanceWindow (classify s s.dp.t1 s.dp.t2 ts).1 ts level s.dp)).dp.FramerTimed
        (· ≤ s.dp.t1) :=
      (hframer.mono fun _ hx => hx.2 hbegun).congr (advanceWindow_framerPart ..)
    obtain ⟨hafter, hadds⟩ := framer_timed hadvanced (BitVec.le_of_lt (hwindow.first hbegun)) hbefore h
    refine ⟨Datapath.edgeTimed_of_le ?_ hafter, .of_withDp hadds⟩
    have hedge := framer_edgePart h
    have hnext : (t.dp.phase, t.dp.t1) = _ := congrArg (fun p => (p.2.2.2.1, p.2.2.2.2.1)) hedge
    rw [Prod.mk.injEq] at hnext
    obtain ⟨hphase', ht1'⟩ := hnext
    rw [hphase', ht1']
    exact advanceWindow_next ..

/-! ### An offered edge -/

/-- The registers by which an edge is held back or compared (10_state.md R33, R34). -/
def Datapath.portPart (d : Datapath) : Bool × Ts × Bool × Ts := (d.lastValid, d.lastTs, d.pendValid, d.pendTs)

theorem deliver_portPart {ts : Ts} {level : Bool} {s t : State} (h : deliver ts level s = .next t) :
    t.dp.portPart = s.dp.portPart := by
  cases hphase : s.dp.phase with
  | start =>
    by_cases hlevel : level = s.dp.pol
    · rw [deliver_awaited ts hphase hlevel] at h
      cases h
      rfl
    · rw [deliver_ignored ts hphase hlevel] at h
      cases h
      rfl
  | mid =>
    rw [deliver_second ts hphase] at h
    cases h
    rfl
  | stop =>
    rw [deliver_third ts hphase] at h
    have hframer : t.dp.portPart = (advanceWindow _ ts level s.dp).portPart :=
      congrArg (fun p => (p.1.1, p.1.2, p.2.1.1, p.2.1.2.1)) (framer_edgePart h)
    obtain ⟨pol, phase, t1, hadvance⟩ := advanceWindow_frame (classify s s.dp.t1 s.dp.t2 ts).1 ts level s.dp
    rw [hframer, hadvance]
    rfl

section
variable {d : Datapath} {ts x : Ts}

theorem Datapath.past_of_held (h : d.pendValid = true) : d.past x ↔ x < d.pendTs := by
  rw [past, if_pos h]

theorem Datapath.past_of_not_held (h : d.pendValid = false) : d.past x ↔ x ≤ d.lastTs := by
  rw [past, if_neg (Bool.eq_false_iff.1 h)]

/-- What is past is earlier than every edge later than the last. -/
theorem Datapath.Timed.past_lt (hd : d.Timed) (hts : d.lastTs < ts) (hx : d.past x) : x < ts := by
  obtain ⟨-, hheld, -⟩ := d.timed_iff.1 hd
  cases hp : d.pendValid with
  | false => exact Nat.lt_of_le_of_lt (d.past_of_not_held hp |>.1 hx) hts
  | true =>
    have hpend : d.pendTs < ts := Nat.lt_of_le_of_lt (hheld hp) hts
    exact Nat.lt_of_lt_of_le (d.past_of_held hp |>.1 hx) (BitVec.le_of_lt hpend)

/-- What the datapath holds is earlier than every edge later than the last. -/
theorem Datapath.Timed.edgeTimed_lt (hd : d.Timed) (hts : d.lastValid = true → d.lastTs < ts) :
    d.EdgeTimed (· < ts) := by
  obtain ⟨hreset, -, hedge⟩ := d.timed_iff.1 hd
  cases hv : d.lastValid with
  | false =>
    rw [hreset hv]
    exact reset_edgeTimed
  | true => exact hedge.mono fun x => hd.past_lt (hts hv)

end

/-- The datapath with the timestamp of an accepted edge (40_classifier.md R111). -/
def Datapath.seen (d : Datapath) (ts : Ts) : Datapath := { d with lastValid := true, lastTs := ts }

/-- The filter keeps time: an edge it holds back is later than all the datapath holds, and one it delivers is earlier than
the one it then holds (40_classifier.md R112, R113). -/
theorem filterEdge_timed {ts : Ts} {level : Bool} {s t : State} (hb : s.dp.Bounded) (hd : s.dp.Timed)
    (hts : s.dp.lastValid = true → s.dp.lastTs < ts)
    (h : filterEdge ts level (s.withDp (s.dp.seen ts)) = .next t) : t.dp.Timed ∧ s.Adds Record.Ordered t := by
  have hbefore : s.dp.EdgeTimed (· < ts) := hd.edgeTimed_lt hts
  cases hheld : s.dp.pendValid with
  | false =>
    rw [filterEdge_holds (s := s.withDp (s.dp.seen ts)) level hheld] at h
    cases h
    refine ⟨(Datapath.timed_iff _).2 ⟨nofun, fun _ => BitVec.le_refl _, ?_⟩, .none rfl⟩
    refine Datapath.EdgeTimed.congr (d := s.dp) rfl rfl (hbefore.mono fun x hx => ?_)
    exact (Datapath.past_of_held rfl).2 hx
  | true =>
    cases hshort : isShort (s.withDp (s.dp.seen ts)) (ts.toNat - s.dp.pendTs.toNat) with
    | true =>
      rw [filterEdge_deletes (s := s.withDp (s.dp.seen ts)) level hheld hshort] at h
      cases h
      refine ⟨(Datapath.timed_iff _).2 ⟨nofun, nofun, ?_⟩, .none rfl⟩
      refine Datapath.EdgeTimed.congr (d := s.dp) rfl rfl (hbefore.mono fun x hx => ?_)
      exact (Datapath.past_of_not_held rfl).2 (BitVec.le_of_lt hx)
    | false =>
      rw [filterEdge_delivers (s := s.withDp (s.dp.seen ts)) level hheld hshort] at h
      obtain ⟨hreset, hlast, hedge⟩ := (Datapath.timed_iff _).1 hd
      have hvalid : s.dp.lastValid = true := by
        by_contra hv
        rw [hreset (Bool.eq_false_iff.2 hv)] at hheld
        cases hheld
      have hpend : s.dp.pendTs < ts := Nat.lt_of_le_of_lt (hlast hheld) (hts hvalid)
      have hearlier : s.dp.EdgeTimed (· < s.dp.pendTs) := hedge.mono fun x => (Datapath.past_of_held hheld).1
      obtain ⟨hafter, hadds⟩ := deliver_timed
        (s := (s.withDp (s.dp.seen ts)).withDp { (s.dp.seen ts) with pendTs := ts, pendLevel := level })
        (Datapath.Bounded.congr (d := s.dp) rfl hb) (Datapath.EdgeTimed.congr (d := s.dp) rfl rfl hearlier) h
      have hport := deliver_portPart h
      simp only [Datapath.portPart, Prod.mk.injEq] at hport
      obtain ⟨hv', hlast', hheld', hpend'⟩ := hport
      have hheld'' : t.dp.pendValid = true := hheld'.trans hheld
      refine ⟨(Datapath.timed_iff _).2 ⟨fun hv => ?_, fun _ => ?_, hafter.mono fun x hx => ?_⟩, .of_withDp hadds⟩
      · exact Bool.noConfusion (hv.symm.trans hv')
      · rw [hpend', hlast']
        exact BitVec.le_refl _
      · rw [Datapath.past_of_held hheld'', hpend']
        exact Nat.lt_of_le_of_lt hx hpend

/-- With the filter off, and so no edge held, the edge is delivered at once (40_classifier.md R111). -/
theorem deliver_seen_timed {ts : Ts} {level : Bool} {s t : State} (hb : s.dp.Bounded) (hd : s.dp.Timed)
    (hts : s.dp.lastValid = true → s.dp.lastTs < ts) (hheld : s.dp.pendValid = false)
    (h : deliver ts level (s.withDp (s.dp.seen ts)) = .next t) : t.dp.Timed ∧ s.Adds Record.Ordered t := by
  obtain ⟨hafter, hadds⟩ := deliver_timed (s := s.withDp (s.dp.seen ts)) (Datapath.Bounded.congr (d := s.dp) rfl hb)
    (Datapath.EdgeTimed.congr (d := s.dp) rfl rfl (hd.edgeTimed_lt hts)) h
  have hport := deliver_portPart h
  simp only [Datapath.portPart, Prod.mk.injEq] at hport
  obtain ⟨hv', hlast', hheld', -⟩ := hport
  have hheld'' : t.dp.pendValid = false := hheld'.trans hheld
  refine ⟨(Datapath.timed_iff _).2 ⟨fun hv => ?_, fun hp => ?_, hafter.mono fun x hx => ?_⟩, .of_withDp hadds⟩
  · exact Bool.noConfusion (hv.symm.trans hv')
  · exact Bool.noConfusion (hheld''.symm.trans hp)
  · rw [Datapath.past_of_not_held hheld'', hlast']
    exact hx

theorem acceptEdge_timed {ts : Ts} {level : Bool} {s t : State} (hb : s.dp.Bounded) (hd : s.dp.Timed)
    (hfilter : s.dp.pendValid = true → s.ignoreShort = true) (h : acceptEdge ts level s = .next t) :
    t.dp.Timed ∧ s.Adds Record.Ordered t := by
  unfold acceptEdge at h
  split at h
  · cases h
    exact ⟨hd, .none rfl⟩
  split at h
  · cases h
    exact ⟨hd, .none rfl⟩
  next hfresh =>
    have hts (hv : s.dp.lastValid = true) : s.dp.lastTs < ts := by
      rw [hv, Bool.true_and, decide_eq_true_eq] at hfresh
      exact BitVec.not_le.1 hfresh
    dsimp only at h
    split at h
    next => exact filterEdge_timed hb hd hts h
    next hoff =>
      have hheld : s.dp.pendValid = false := Bool.eq_false_iff.2 fun hp => hoff (hfilter hp)
      exact deliver_seen_timed hb hd hts hheld h

/-- Settles O58: an accepted edge is later than all that the datapath holds; every other step leaves the datapath or
resets it, and adds no record. -/
theorem stepKeepsTimeAndRangesOrdered : Obligations.StepKeepsTimeAndRangesOrdered := by
  intro s t hc hf htimed hranges hstep
  obtain ⟨hbounded, -⟩ := (State.framed_iff s).1 hf
  obtain ⟨-, -, hfilter⟩ := hc
  obtain ⟨ts, level, rest, hedge⟩ | ⟨hdp, hquiet⟩ := step_edge_or_quiet hstep
  · obtain ⟨htimed', hadds⟩ := acceptEdge_timed (s := s.withScript rest) hbounded htimed hfilter hedge
    exact ⟨htimed', hadds.keeps hranges⟩
  · refine ⟨?_, fun r hr => hranges r (hquiet r hr)⟩
    obtain hdp | hdp := hdp
    · rwa [hdp]
    · rw [hdp]
      exact Datapath.reset_timed

end Sys2Proof.Machine
end


section
/-! PROOFS. The framer inverts the line coding (30_encoding.md R81, 41_framer.md R145 to R156): a run of bits is cut into
the preamble, the start bit and the bytes with their marker bits. Each part has one lemma that gives the state it leaves
and the records it adds; the records of the parts are then sorted by their kind. -/

namespace Sys2Proof.Machine

/-! ### Runs -/

theorem feed_append (us vs : List LineBit) (s : State) : feed (us ++ vs) s = andThen (feed us s) (feed vs) := by
  induction us generalizing s with
  | nil => rfl
  | cons u us ih =>
    rw [List.cons_append, feed, feed]
    cases framer (if u.bit then .one else .zero) u.stretched u.start u.stop s with
    | next t => exact ih t
    | fault f => rfl
    | refused r => rfl

theorem feed_append_of_next {us vs : List LineBit} {s t : State} (h : feed us s = .next t) :
    feed (us ++ vs) s = feed vs t := by
  rw [feed_append, h, andThen_next]

theorem bitRecords_zero (ws : List LineBit) : bitRecords 0 ws = ws.map (LineBit.record 0) := by
  cases ws <;> rfl

/-- Only the first bit of a run can have short pulses to report. -/
theorem bitRecords_append (short : Nat) (w : LineBit) (us vs : List LineBit) :
    bitRecords short (w :: us ++ vs) = bitRecords short (w :: us) ++ vs.map (LineBit.record 0) := by
  simp [bitRecords]

/-- With no short pulse pending a reported bit adds its BIT record with the sum 0. -/
theorem State.reportBit_outq (w : LineBit) {s : State} (hshort : s.dp.accShort = 0) :
    (s.reportBit w).outq = s.outq ++ [w.record 0] := by
  rw [reportBit, withDp_outq, emit_outq, hshort]
  rfl

/-! ### The preamble -/

/-- The framer has seen `count` Ones, counted up to the counter's limit, and no short pulse since. -/
structure State.Counted (s : State) (count : Nat) : Prop where
  fsm : s.dp.fsm = .pre
  accShort : s.dp.accShort = 0
  preCnt : s.dp.preCnt.toNat = min count 65535

/-- Ones in PRE are counted (41_framer.md R148). -/
theorem feed_preambleOnes {ws : List LineBit} (hones : ∀ w ∈ ws, w.bit = true) {s : State} {count : Nat}
    (hs : s.Counted count) :
    ∃ t : State, feed ws s = .next t ∧ t.Counted (count + ws.length) ∧
      t.outq = s.outq ++ ws.map (LineBit.record 0) := by
  induction ws generalizing s count with
  | nil => exact ⟨s, rfl, hs, (List.append_nil _).symm⟩
  | cons w ws ih =>
    obtain ⟨hone, hrest⟩ := List.forall_mem_cons.1 hones
    have hnext : (bitInPre true w.stop (s.reportBit w)).Counted (count + 1) := by
      refine ⟨hs.fsm, rfl, (sat_toNat 16 _).trans ?_⟩
      rw [show (s.reportBit w).dp.preCnt = s.dp.preCnt from rfl, hs.preCnt]
      omega
    obtain ⟨t, hfeed, ht, houtq⟩ := ih hrest hnext
    refine ⟨t, ?_, ?_, ?_⟩
    · rw [feed, framer_pre w hs.fsm, andThen_next, hone, hfeed]
    · rwa [Nat.add_right_comm, Nat.add_assoc] at ht
    · rw [houtq, List.map_cons, List.append_cons, ← State.reportBit_outq w hs.accShort]
      rfl

/-- A run of Ones from WAIT is a preamble (41_framer.md R147, R148). -/
theorem feed_preamble {w : LineBit} {ws : List LineBit} (hones : ∀ v ∈ w :: ws, v.bit = true) {s : State}
    (hfsm : s.dp.fsm = .wait) :
    ∃ t : State, feed (w :: ws) s = .next t ∧ t.Counted (1 + ws.length) ∧
      t.outq = s.outq ++ bitRecords s.dp.accShort.toNat (w :: ws) := by
  obtain ⟨hone, hrest⟩ := List.forall_mem_cons.1 hones
  have hfirst : (bitInWait true w.start (s.reportBit w)).Counted 1 := ⟨rfl, rfl, rfl⟩
  obtain ⟨t, hfeed, ht, houtq⟩ := feed_preambleOnes hrest hfirst
  refine ⟨t, ?_, ht, ?_⟩
  · rw [feed, framer_wait w hfsm, andThen_next, hone, hfeed]
  · rw [houtq, bitRecords, List.append_cons]
    rfl

/-! ### The bytes -/

/-- The framer is between two bytes of a packet: in DATA, with no bit of the next byte and no short pulse. -/
structure State.AtByte (s : State) : Prop where
  fsm : s.dp.fsm = .data
  bitcnt : s.dp.bitcnt = 0
  accShort : s.dp.accShort = 0

/-- The values of the bytes in the buffer. -/
def State.values (s : State) : List Byte := s.dp.pkt.map PktByte.val

/-- The Zero after a preamble that is long enough is the start bit of a packet (41_framer.md R149). -/
theorem feed_startBit {w : LineBit} (hzero : w.bit = false) {s : State} {count : Nat} (hs : s.Counted count)
    (hcount : 10 ≤ count) :
    ∃ (t : State) (p : Record), feed [w] s = .next t ∧ t.AtByte ∧ t.values = [] ∧
      t.outq = s.outq ++ [w.record 0, p] ∧ p.kind = 4 ∧ p.a0 = BitVec.ofNat 32 (min count 65535) := by
  have hlong : 10 ≤ (s.reportBit w).dp.preCnt.toNat := by
    rw [show (s.reportBit w).dp.preCnt = s.dp.preCnt from rfl, hs.preCnt]
    omega
  have hfeed : feed [w] s = .next (bitInPre false w.stop (s.reportBit w)) := by
    rw [feed, framer_pre w hs.fsm, andThen_next, hzero, feed]
  rw [bitInPre_starts w.stop hlong] at hfeed
  refine ⟨_, ⟨4, s.dp.preStart, w.stop, BitVec.ofNat 32 s.dp.preCnt.toNat, 0, 0, 0⟩, hfeed, ⟨rfl, rfl, rfl⟩,
    rfl, ?_, rfl, congrArg (BitVec.ofNat 32) hs.preCnt⟩
  rw [List.append_cons, ← State.reportBit_outq w hs.accShort]
  rfl

/-- `u` is `s` after the BIT records of `ws` with the eight bits of `b` read: the marker bit is next. -/
structure State.ByteRead (s : State) (ws : List LineBit) (b : Byte) (u : State) : Prop where
  fsm : u.dp.fsm = .data
  bitcnt : u.dp.bitcnt = 8
  accShort : u.dp.accShort = 0
  acc : u.dp.acc = b
  pkt : u.dp.pkt = s.dp.pkt
  outq : u.outq = s.outq ++ ws.map (LineBit.record 0)

/-- The eight bits of a byte (41_framer.md R151). -/
theorem feed_byte {ws : List LineBit} {b : Byte} {s : State} (hs : s.AtByte) (hbits : ws.map LineBit.bit = byteBits b) :
    ∃ u, feed ws s = .next u ∧ s.ByteRead ws b u := by
  have hlen : ws.length = 8 := by
    rw [← List.length_map LineBit.bit, hbits]
    rfl
  have hfeed := feed_dataBits ws hs.fsm (by rw [hs.bitcnt, hlen])
  rw [foldl_shiftInto_byte hs.bitcnt hbits, hs.accShort] at hfeed
  exact ⟨_, hfeed, hs.fsm, rfl, rfl, rfl, rfl, congrArg (s.outq ++ ·) (bitRecords_zero ws)⟩

section
variable {s u : State} {ws : List LineBit} {b : Byte}

/-- The byte read goes to the end of the buffer. -/
theorem State.ByteRead.values (hu : s.ByteRead ws b u) : (pktWithByte u.dp).map PktByte.val = s.values ++ [b] := by
  rw [pktWithByte, hu.pkt, List.map_append, List.map_singleton, hu.acc, State.values]

/-- The BIT record of the marker bit follows those of the byte. -/
theorem State.ByteRead.reportBit_outq (hu : s.ByteRead ws b u) (w : LineBit) :
    (u.reportBit w).outq = s.outq ++ (ws ++ [w]).map (LineBit.record 0) := by
  simp [State.reportBit, State.emit, State.withDp, hu.outq, hu.accShort]

/-- A Zero after a byte puts the byte in the buffer and begins another (41_framer.md R153). -/
theorem feed_byteThenZero {w : LineBit} (hs : s.AtByte) (hroom : s.dp.pkt.length < 16)
    (hbits : ws.map LineBit.bit = byteBits b) (hzero : w.bit = false) :
    ∃ t : State, feed (ws ++ [w]) s = .next t ∧ t.AtByte ∧ t.outq = s.outq ++ (ws ++ [w]).map (LineBit.record 0) ∧
      t.values = s.values ++ [b] := by
  obtain ⟨u, hfeed, hu⟩ := feed_byte hs hbits
  have hroom' : (u.reportBit w).dp.pkt.length < 16 := by
    rwa [← hu.pkt] at hroom
  refine ⟨(u.reportBit w).withDp { (u.reportBit w).dp with pkt := pktWithByte u.dp, bitcnt := 0, acc := 0 }, ?_,
    ⟨hu.fsm, rfl, rfl⟩, hu.reportBit_outq w, hu.values⟩
  rw [feed_append_of_next hfeed, feed, framer_marker w hu.fsm hu.bitcnt, hzero, markerBit_zero _ _ hroom']
  rfl

/-- The records of a packet with the byte values `bytes` that was finalised: the BYTE records, then records of the kinds
FIELD, CHECKSUM and PACKET_END (41_framer.md R155). -/
def packetRecords (bytes : List Byte) (rs : List Record) : Prop :=
  ∃ (pkt : List PktByte) (tail : List Record), rs = byteRecords 0 pkt ++ tail ∧ pkt.map PktByte.val = bytes ∧
    ∀ r ∈ tail, 6 ≤ r.kind

/-- What finalisation adds (41_framer.md R155 to R160). -/
theorem finalise_packetRecords (m1 m3 : Ts) (s : State) :
    ∃ (t : State) (rs : List Record), finalise m1 m3 s = .next t ∧ t.outq = s.outq ++ rs ∧
      packetRecords s.values rs := by
  obtain ⟨fs, -, hfinal⟩ := finalise_fields m1 m3 s
  rw [List.append_assoc] at hfinal
  refine ⟨_, _, hfinal, rfl, _, _, rfl, rfl, ?_⟩
  simp only [List.forall_mem_append, List.forall_mem_map, List.forall_mem_cons]
  exact ⟨fun f _ => Nat.le_refl 6, Nat.le_succ 6, Nat.le_add_right 6 2, nofun⟩

/-- A One after a byte ends the packet with that byte (41_framer.md R154). -/
theorem feed_byteThenOne {w : LineBit} (hs : s.AtByte) (hroom : s.dp.pkt.length < 16)
    (hbits : ws.map LineBit.bit = byteBits b) (hone : w.bit = true) :
    ∃ (t : State) (rs : List Record), feed (ws ++ [w]) s = .next t ∧ t.dp.fsm = .wait ∧ t.dp.pkt = [] ∧
      t.outq = s.outq ++ (ws ++ [w]).map (LineBit.record 0) ++ rs ∧ packetRecords (s.values ++ [b]) rs := by
  obtain ⟨u, hfeed, hu⟩ := feed_byte hs hbits
  have hroom' : (u.reportBit w).dp.pkt.length < 16 := by
    rwa [← hu.pkt] at hroom
  obtain ⟨t, rs, hfinal, houtq, hrs⟩ := finalise_packetRecords w.start w.stop
    ((u.reportBit w).withDp { (u.reportBit w).dp with pkt := pktWithByte (u.reportBit w).dp })
  refine ⟨t.withDp { t.dp with fsm := .wait, pkt := [] }, rs, ?_, rfl, rfl, ?_, ?_⟩
  · rw [feed_append_of_next hfeed, feed, framer_reportBit, hone,
      frameBit_packetEnd (s := u.reportBit w) _ _ hu.fsm hu.bitcnt hroom', hfinal]
    rfl
  · rw [← hu.reportBit_outq w]
    exact houtq
  · rw [← hu.values]
    exact hrs

end

/-- The bytes of a packet with their marker bits give the BIT records of all the bits, then the packet's records
(30_encoding.md R81, 41_framer.md R151 to R156). -/
theorem feed_lineBits {bytes : List Byte} {ws : List LineBit} {s : State} (hs : s.AtByte) (hbytes : bytes ≠ [])
    (hroom : s.values.length + bytes.length ≤ 16) (hbits : ws.map LineBit.bit = lineBits bytes) :
    ∃ (t : State) (rs : List Record), feed ws s = .next t ∧ t.dp.fsm = .wait ∧ t.dp.pkt = [] ∧
      t.outq = s.outq ++ ws.map (LineBit.record 0) ++ rs ∧ packetRecords (s.values ++ bytes) rs := by
  induction bytes generalizing ws s with
  | nil => exact absurd rfl hbytes
  | cons b rest ih =>
    have hlen : s.dp.pkt.length < 16 := by
      rw [State.values, List.length_map, List.length_cons] at hroom
      omega
    cases rest with
    | nil =>
      obtain ⟨us, vs, rfl, hus, hvs⟩ := List.map_eq_append_iff.1 hbits
      obtain ⟨w, rfl, hw⟩ := List.map_eq_singleton_iff.1 hvs
      exact feed_byteThenOne hs hlen hus hw
    | cons c rest =>
      obtain ⟨us, vs, rfl, hus, hvs⟩ := List.map_eq_append_iff.1 hbits
      obtain ⟨w, vs, rfl, hw, hvs⟩ := List.map_eq_cons_iff.1 hvs
      obtain ⟨u, hbyte, hu, houtq, hvalues⟩ := feed_byteThenZero hs hlen hus hw
      have hroom' : u.values.length + (c :: rest).length ≤ 16 := by
        rw [hvalues, List.length_append, Nat.add_assoc]
        simpa [Nat.add_comm] using hroom
      obtain ⟨t, rs, hfeed, hfsm, hpkt, hall, hrs⟩ := ih hu (List.cons_ne_nil c rest) hroom' hvs
      refine ⟨t, rs, ?_, hfsm, hpkt, ?_, ?_⟩
      · rw [List.append_cons, feed_append_of_next hbyte, hfeed]
      · rw [hall, houtq, List.append_cons us w vs, List.map_append (l₁ := us ++ [w]), ← List.append_assoc s.outq]
      · rwa [hvalues, List.append_assoc] at hrs

/-! ### The records by kind -/

/-- The records of kind `k`. -/
def ofKind (k : BitVec 4) (rs : List Record) : List Record := rs.filter fun r => r.kind == k

theorem ofKind_append (k : BitVec 4) (us vs : List Record) : ofKind k (us ++ vs) = ofKind k us ++ ofKind k vs :=
  List.filter_append us vs

theorem ofKind_eq_self {k : BitVec 4} {rs : List Record} (h : ∀ r ∈ rs, r.kind = k) : ofKind k rs = rs :=
  List.filter_eq_self.2 fun r hr => beq_iff_eq.2 (h r hr)

theorem ofKind_eq_nil {k j : BitVec 4} {rs : List Record} (h : ∀ r ∈ rs, r.kind = j) (hne : j ≠ k) :
    ofKind k rs = [] :=
  List.filter_eq_nil_iff.2 fun r hr hk => hne ((h r hr).symm.trans (beq_iff_eq.1 hk))

theorem bitRecords_kind (short : Nat) (ws : List LineBit) : ∀ r ∈ bitRecords short ws, r.kind = 1 := by
  cases ws with
  | nil => nofun
  | cons w ws => exact List.forall_mem_cons.2 ⟨rfl, List.forall_mem_map.2 fun _ _ => rfl⟩

section
variable {bytes : List Byte} {rs : List Record}

/-- After the BYTE records of a packet there is no record of an earlier kind. -/
theorem packetRecords.ofKind_eq (h : packetRecords bytes rs) {k : BitVec 4} (hk : k < 6) :
    ∃ pkt : List PktByte, pkt.map PktByte.val = bytes ∧ ofKind k rs = ofKind k (byteRecords 0 pkt) := by
  obtain ⟨pkt, tail, rfl, hpkt, htail⟩ := h
  have hnone : ofKind k tail = [] :=
    List.filter_eq_nil_iff.2 fun r hr hkind => BitVec.not_lt.2 (htail r hr) (beq_iff_eq.1 hkind ▸ hk)
  exact ⟨pkt, hpkt, by rw [ofKind_append, hnone, List.append_nil]⟩

theorem packetRecords.ofKind_eq_nil (h : packetRecords bytes rs) {k : BitVec 4} (hk : k < 5) : ofKind k rs = [] := by
  obtain ⟨pkt, -, hrs⟩ := h.ofKind_eq (hk.trans (b := 5) (by decide))
  rw [hrs, Machine.ofKind_eq_nil (byteRecords_kind 0 pkt) (BitVec.ne_of_lt hk).symm]

/-- One BYTE record for each byte, with its value and index. -/
theorem packetRecords.ofKind_byte (h : packetRecords bytes rs) :
    (ofKind 5 rs).map (fun r => (r.a0, r.a1)) =
      bytes.mapIdx fun k b => (BitVec.ofNat 32 b.toNat, BitVec.ofNat 32 k) := by
  obtain ⟨pkt, rfl, hrs⟩ := h.ofKind_eq (k := 5) (by decide)
  rw [hrs, ofKind_eq_self (byteRecords_kind 0 pkt), byteRecords_eq_mapIdx]
  exact List.ext_getElem (by simp) (by simp)

end

section
variable {us vs rs : List Record} {r p : Record} (hus : ∀ x ∈ us, x.kind = 1) (hr : r.kind = 1)
  (hvs : ∀ x ∈ vs, x.kind = 1)
include hus hr hvs

/-- Behind a preamble of BIT records: the BIT records of the line, in their order. -/
theorem ofKind_bit (hp : p.kind = 4) (hrs : ofKind 1 rs = []) :
    ofKind 1 (us ++ ([r, p] ++ (vs ++ rs))) = us ++ r :: vs := by
  have hpair : ofKind 1 [r, p] = [r] := by simp [ofKind, hr, hp]
  rw [ofKind_append, ofKind_append, ofKind_append, ofKind_eq_self hus, ofKind_eq_self hvs, hrs, hpair, List.append_nil,
    List.singleton_append]

/-- The other records of the line are the PREAMBLE record and the packet's. -/
theorem ofKind_other {k : BitVec 4} (hk : 1 ≠ k) :
    ofKind k (us ++ ([r, p] ++ (vs ++ rs))) = ofKind k [p] ++ ofKind k rs := by
  have hpair : ofKind k [r, p] = ofKind k [p] := List.filter_cons_of_neg (hr ▸ mt beq_iff_eq.1 hk)
  rw [ofKind_append, ofKind_append, ofKind_append, ofKind_eq_nil hus hk, ofKind_eq_nil hvs hk, hpair, List.nil_append,
    List.nil_append]

end

/-! ### The packet -/

/-- A preamble, the start bit and the bytes from WAIT: the BIT records of the preamble; of the start bit, with the
PREAMBLE record behind it; of the bytes; and the packet's records. -/
theorem feed_packet {v w : LineBit} {ones ws : List LineBit} {bytes : List Byte} {s : State} (hfsm : s.dp.fsm = .wait)
    (hones : ∀ u ∈ v :: ones, u.bit = true) (hlong : 10 ≤ 1 + ones.length) (hzero : w.bit = false)
    (hbytes : bytes ≠ []) (hlen : bytes.length ≤ 16) (hbits : ws.map LineBit.bit = lineBits bytes) :
    ∃ (t : State) (p : Record) (rs : List Record), feed (v :: ones ++ w :: ws) s = .next t ∧
      t.outq = s.outq ++ (bitRecords s.dp.accShort.toNat (v :: ones) ++ ([w.record 0, p] ++
        (ws.map (LineBit.record 0) ++ rs))) ∧
      t.dp.fsm = .wait ∧ t.dp.pkt = [] ∧ p.kind = 4 ∧ p.a0 = BitVec.ofNat 32 (min (1 + ones.length) 65535) ∧
      packetRecords bytes rs := by
  obtain ⟨s1, hpreamble, hs1, houtq1⟩ := feed_preamble hones hfsm
  obtain ⟨s2, p, hstart, hs2, hvalues, houtq2, hkind, hcount⟩ := feed_startBit hzero hs1 hlong
  obtain ⟨t, rs, hfeed, hwait, hpkt, houtq, hrs⟩ := feed_lineBits hs2 hbytes (by simpa [hvalues] using hlen) hbits
  rw [hvalues, List.nil_append] at hrs
  refine ⟨t, p, rs, ?_, ?_, hwait, hpkt, hkind, hcount, hrs⟩
  · rw [feed_append_of_next hpreamble, ← List.singleton_append, feed_append_of_next hstart, hfeed]
  · rw [houtq, houtq2, houtq1]
    simp only [List.append_assoc]

/-- Settles O43: the records of a packet on the line, sorted by kind. -/
theorem framerReadsWhatTheLineCarries : Obligations.FramerReadsWhatTheLineCarries := by
  intro s n bytes ws hfsm hn hbytes hlen hbits
  obtain ⟨us, vs, rfl, hus, hvs⟩ := List.map_eq_append_iff.1 hbits
  obtain ⟨w, vs, rfl, hzero, hvs⟩ := List.map_eq_cons_iff.1 hvs
  obtain ⟨hcount, hones⟩ := List.eq_replicate_iff.1 hus
  rw [List.length_map] at hcount
  rw [List.forall_mem_map] at hones
  cases us with
  | nil => rw [← hcount] at hn; exact absurd hn (Nat.not_succ_le_zero 9)
  | cons v ones =>
    rw [List.length_cons, Nat.add_comm] at hcount
    subst hcount
    obtain ⟨t, p, rs, hfeed, houtq, hwait, hpkt, hkind, ha0, hrs⟩ := feed_packet hfsm hones hn hzero hbytes hlen hvs
    have hpre := bitRecords_kind s.dp.accShort.toNat (v :: ones)
    have hdata := bitRecords_kind 0 vs
    rw [bitRecords_zero] at hdata
    have hother {k : BitVec 4} (hk : 1 ≠ k) := ofKind_other hpre (r := w.record 0) (p := p) rfl hdata (rs := rs) hk
    refine ⟨t, _, hfeed, houtq, hwait, hpkt, ?preambles, ?bytes, ?resyncs, ?bits⟩
    case preambles =>
      refine (congrArg _ (hother (k := 4) (by decide))).trans ?_
      rw [ofKind_eq_self (by simp [hkind]), hrs.ofKind_eq_nil (by decide), List.append_nil, List.map_singleton, ha0]
    case bytes =>
      refine (congrArg _ (hother (k := 5) (by decide))).trans ?_
      rw [ofKind_eq_nil (j := 4) (by simp [hkind]) (by decide), List.nil_append, hrs.ofKind_byte]
    case resyncs =>
      refine (hother (k := 3) (by decide)).trans ?_
      rw [ofKind_eq_nil (j := 4) (by simp [hkind]) (by decide), List.nil_append, hrs.ofKind_eq_nil (by decide)]
    case bits =>
      refine (ofKind_bit hpre rfl hdata hkind (hrs.ofKind_eq_nil (by decide))).trans ?_
      rw [bitRecords_append, List.map_cons]

end Sys2Proof.Machine
end
